-- ==== Sys2Proof/Word.lean ====
section
/-! DEFINITION. The word types of CORE (00_scope R6, R11, R12): every value is unsigned, bit 0 is the
least significant bit. -/

namespace Sys2Proof

/-- An 8-bit value: a general register, the timer, a byte of memory, the operand NN (R6, R17). -/
abbrev Byte := BitVec 8

/-- A 16-bit instruction word, `w` of R11. -/
abbrev Word := BitVec 16

/-- A 16-bit register value that addresses memory: `I`, `pc`, an element of `S` (R20, R21, R23). -/
abbrev Addr := BitVec 16

/-- The 12-bit address operand NNN (R6, R55). -/
abbrev Addr12 := BitVec 12

/-- A 4-bit field of the instruction word: a family, a sub-selector or the row count N (R11). -/
abbrev Nibble := BitVec 4

/-- The index of a general register, 0 to 15 (R17). -/
abbrev Reg := Fin 16

/-- The index of a key flag, 0 to 15 (R26); the port `key_index` is 4 bits wide (R32). -/
abbrev Key := Fin 16

end Sys2Proof
end

