-- ==== Sys2Proof/Syntax.lean ====
section
/-! DEFINITION. The instruction set: one constructor for each of the 34 rows of spec/opcode_table.json
(30_encoding R57), with every operand field of the row. Operands have their exact width (R55). -/

namespace Sys2Proof

/-- A decoded instruction (30_encoding R57). `x` and `y` are the register indexes of the fields X and Y. -/
inductive Instr where
  /-- 00E0 `CLS` -/
  | cls
  /-- 00EE `RET` -/
  | ret
  /-- 1NNN `JP NNN` -/
  | jp (nnn : Addr12)
  /-- 2NNN `CALL NNN` -/
  | call (nnn : Addr12)
  /-- 3XNN `SE Vx, NN` -/
  | seImm (x : Reg) (nn : Byte)
  /-- 4XNN `SNE Vx, NN` -/
  | sneImm (x : Reg) (nn : Byte)
  /-- 5XY0 `SE Vx, Vy` -/
  | seReg (x y : Reg)
  /-- 6XNN `LD Vx, NN` -/
  | ldImm (x : Reg) (nn : Byte)
  /-- 7XNN `ADD Vx, NN` -/
  | addImm (x : Reg) (nn : Byte)
  /-- 8XY0 `LD Vx, Vy` -/
  | ldReg (x y : Reg)
  /-- 8XY1 `OR Vx, Vy` -/
  | or (x y : Reg)
  /-- 8XY2 `AND Vx, Vy` -/
  | and (x y : Reg)
  /-- 8XY3 `XOR Vx, Vy` -/
  | xor (x y : Reg)
  /-- 8XY4 `ADD Vx, Vy` -/
  | addReg (x y : Reg)
  /-- 8XY5 `SUB Vx, Vy` -/
  | sub (x y : Reg)
  /-- 8XY6 `SHR Vx`; the field Y is decoded and ignored (R60) -/
  | shr (x y : Reg)
  /-- 8XY7 `SUBN Vx, Vy` -/
  | subn (x y : Reg)
  /-- 8XYE `SHL Vx`; the field Y is decoded and ignored (R60) -/
  | shl (x y : Reg)
  /-- 9XY0 `SNE Vx, Vy` -/
  | sneReg (x y : Reg)
  /-- ANNN `LD I, NNN` -/
  | ldI (nnn : Addr12)
  /-- BNNN `JP V0, NNN` -/
  | jpV0 (nnn : Addr12)
  /-- CXNN `RND Vx, NN` -/
  | rnd (x : Reg) (nn : Byte)
  /-- DXYN `DRW Vx, Vy, N` -/
  | drw (x y : Reg) (n : Nibble)
  /-- EX9E `SKP Vx` -/
  | skp (x : Reg)
  /-- EXA1 `SKNP Vx` -/
  | sknp (x : Reg)
  /-- FX07 `LD Vx, DT` -/
  | ldVxDt (x : Reg)
  /-- FX0A `LD Vx, K` -/
  | ldVxK (x : Reg)
  /-- FX15 `LD DT, Vx` -/
  | ldDtVx (x : Reg)
  /-- FX18 `LD ST, Vx`; the field X is decoded and not used (R60) -/
  | ldStVx (x : Reg)
  /-- FX1E `ADD I, Vx` -/
  | addI (x : Reg)
  /-- FX29 `LD F, Vx` -/
  | ldF (x : Reg)
  /-- FX33 `LD B, Vx` -/
  | ldB (x : Reg)
  /-- FX55 `LD [I], Vx` -/
  | dump (x : Reg)
  /-- FX65 `LD Vx, [I]` -/
  | load (x : Reg)
  deriving DecidableEq, Repr

end Sys2Proof
end

