-- ==== Sys2Proof/Decode.lean ====
section
/-! DEFINITION. Decoding and encoding (30_encoding R53 to R64), written from the formats of R54 and the
opcode map of R57. The decoder is total: every word is one instruction or an unknown word of one of the six
classes of R61. Opcode numbers: log 9. Strict sub-selectors: log 10. -/

namespace Sys2Proof

/-- The six classes of unknown words, (a) to (f) of R61. -/
inductive UnknownWord where
  /-- (a) family 0, neither 0x00E0 nor 0x00EE -/
  | family0
  /-- (b) family 5, low nibble not 0 -/
  | family5
  /-- (c) family 8, low nibble 8, 9, A, B, C, D or F -/
  | family8
  /-- (d) family 9, low nibble not 0 -/
  | family9
  /-- (e) family E, low byte neither 0x9E nor 0xA1 -/
  | familyE
  /-- (f) family F, low byte none of the nine defined ones -/
  | familyF
  deriving DecidableEq, Repr

/-- What a word decodes to (R56): an instruction, or an unknown word with its class. -/
inductive Decoded where
  | instr (i : Instr)
  | unknown (u : UnknownWord)
  deriving DecidableEq, Repr

/-! ### Fields of the instruction word (R11, R55) -/

/-- The family `w[15:12]`. -/
def fieldFamily (w : Word) : Nibble := w.extractLsb' 12 4

/-- X = `w[11:8]`, a register index. -/
def fieldX (w : Word) : Reg := (w.extractLsb' 8 4).toFin

/-- Y = `w[7:4]`, a register index. -/
def fieldY (w : Word) : Reg := (w.extractLsb' 4 4).toFin

/-- N = `w[3:0]`, a row count or a sub-selector. -/
def fieldN (w : Word) : Nibble := w.extractLsb' 0 4

/-- NN = `w[7:0]`, an immediate or a sub-selector. -/
def fieldNN (w : Word) : Byte := w.extractLsb' 0 8

/-- NNN = `w[11:0]`, an address. -/
def fieldNNN (w : Word) : Addr12 := w.extractLsb' 0 12

/-! ### The decoder (R56) -/

/-- Family 8: the sub-selector is `w[3:0]`. -/
def decodeFamily8 (w : Word) : Decoded :=
  let x := fieldX w
  let y := fieldY w
  match (fieldN w).toNat with
  | 0x0 => .instr (.ldReg x y)
  | 0x1 => .instr (.or x y)
  | 0x2 => .instr (.and x y)
  | 0x3 => .instr (.xor x y)
  | 0x4 => .instr (.addReg x y)
  | 0x5 => .instr (.sub x y)
  | 0x6 => .instr (.shr x y)
  | 0x7 => .instr (.subn x y)
  | 0xE => .instr (.shl x y)
  | _ => .unknown .family8

/-- Family E: the sub-selector is `w[7:0]`. -/
def decodeFamilyE (w : Word) : Decoded :=
  match (fieldNN w).toNat with
  | 0x9E => .instr (.skp (fieldX w))
  | 0xA1 => .instr (.sknp (fieldX w))
  | _ => .unknown .familyE

/-- Family F: the sub-selector is `w[7:0]`. -/
def decodeFamilyF (w : Word) : Decoded :=
  let x := fieldX w
  match (fieldNN w).toNat with
  | 0x07 => .instr (.ldVxDt x)
  | 0x0A => .instr (.ldVxK x)
  | 0x15 => .instr (.ldDtVx x)
  | 0x18 => .instr (.ldStVx x)
  | 0x1E => .instr (.addI x)
  | 0x29 => .instr (.ldF x)
  | 0x33 => .instr (.ldB x)
  | 0x55 => .instr (.dump x)
  | 0x65 => .instr (.load x)
  | _ => .unknown .familyF

/-- The decoder of R56: the family, then the sub-selector the family asks for. The last arm is family F. -/
def decode (w : Word) : Decoded :=
  match (fieldFamily w).toNat with
  | 0x0 =>
    if w = 0x00E0#16 then .instr .cls
    else if w = 0x00EE#16 then .instr .ret
    else .unknown .family0
  | 0x1 => .instr (.jp (fieldNNN w))
  | 0x2 => .instr (.call (fieldNNN w))
  | 0x3 => .instr (.seImm (fieldX w) (fieldNN w))
  | 0x4 => .instr (.sneImm (fieldX w) (fieldNN w))
  | 0x5 => if fieldN w = 0x0#4 then .instr (.seReg (fieldX w) (fieldY w)) else .unknown .family5
  | 0x6 => .instr (.ldImm (fieldX w) (fieldNN w))
  | 0x7 => .instr (.addImm (fieldX w) (fieldNN w))
  | 0x8 => decodeFamily8 w
  | 0x9 => if fieldN w = 0x0#4 then .instr (.sneReg (fieldX w) (fieldY w)) else .unknown .family9
  | 0xA => .instr (.ldI (fieldNNN w))
  | 0xB => .instr (.jpV0 (fieldNNN w))
  | 0xC => .instr (.rnd (fieldX w) (fieldNN w))
  | 0xD => .instr (.drw (fieldX w) (fieldY w) (fieldN w))
  | 0xE => decodeFamilyE w
  | _ => decodeFamilyF w

/-! ### Bytes of an instruction word (R42): the high byte lies at the lower address -/

/-- The word whose high byte is `hi` and whose low byte is `lo`. -/
def wordOfBytes (hi lo : Byte) : Word := hi.setWidth 16 <<< 8 ||| lo.setWidth 16

/-- `w[15:8]`, the byte at the lower address. -/
def highByte (w : Word) : Byte := w.extractLsb' 8 8

/-- `w[7:0]`, the byte at the higher address. -/
def lowByte (w : Word) : Byte := w.extractLsb' 0 8

/-- The decoder on the two bytes of an instruction, the one at the lower address first. -/
def decodeBytes (hi lo : Byte) : Decoded := decode (wordOfBytes hi lo)

/-- What the decoder reads from an instruction whose bits, numbered as spec/opcode_table.json numbers them
(bit 0 the least significant bit of the one 16-bit word), are `w`; bits from `nbits` on are 0. -/
def decodeTableWord (nbits w : Nat) : Option Instr :=
  let word : Word := BitVec.ofNat 16 (w % 2 ^ nbits)
  match decodeBytes (highByte word) (lowByte word) with
  | .instr i => some i
  | .unknown _ => none

/-! ### The encoder (R54): the formats, then one line for each row of R57 -/

/-- A register index as a 4-bit field. -/
def regBits (r : Reg) : Nibble := BitVec.ofFin r

/-- Format NNN: family, NNN. -/
def encNNN (f : Nibble) (nnn : Addr12) : Word := f.setWidth 16 <<< 12 ||| nnn.setWidth 16

/-- Format XNN: family, X, NN. -/
def encXNN (f : Nibble) (x : Reg) (nn : Byte) : Word :=
  f.setWidth 16 <<< 12 ||| (regBits x).setWidth 16 <<< 8 ||| nn.setWidth 16

/-- Formats XYS and XYN: family, X, Y, and a sub-selector or row count. -/
def encXYN (f : Nibble) (x y : Reg) (n : Nibble) : Word :=
  f.setWidth 16 <<< 12 ||| (regBits x).setWidth 16 <<< 8 ||| (regBits y).setWidth 16 <<< 4 |||
    n.setWidth 16

/-- Format XSS: family, X, and the sub-selector byte. -/
def encXSS (f : Nibble) (x : Reg) (ss : Byte) : Word := encXNN f x ss

/-- The instruction word of an instruction (R54, R57). -/
def encode : Instr → Word
  | .cls => 0x00E0#16
  | .ret => 0x00EE#16
  | .jp nnn => encNNN 0x1#4 nnn
  | .call nnn => encNNN 0x2#4 nnn
  | .seImm x nn => encXNN 0x3#4 x nn
  | .sneImm x nn => encXNN 0x4#4 x nn
  | .seReg x y => encXYN 0x5#4 x y 0x0#4
  | .ldImm x nn => encXNN 0x6#4 x nn
  | .addImm x nn => encXNN 0x7#4 x nn
  | .ldReg x y => encXYN 0x8#4 x y 0x0#4
  | .or x y => encXYN 0x8#4 x y 0x1#4
  | .and x y => encXYN 0x8#4 x y 0x2#4
  | .xor x y => encXYN 0x8#4 x y 0x3#4
  | .addReg x y => encXYN 0x8#4 x y 0x4#4
  | .sub x y => encXYN 0x8#4 x y 0x5#4
  | .shr x y => encXYN 0x8#4 x y 0x6#4
  | .subn x y => encXYN 0x8#4 x y 0x7#4
  | .shl x y => encXYN 0x8#4 x y 0xE#4
  | .sneReg x y => encXYN 0x9#4 x y 0x0#4
  | .ldI nnn => encNNN 0xA#4 nnn
  | .jpV0 nnn => encNNN 0xB#4 nnn
  | .rnd x nn => encXNN 0xC#4 x nn
  | .drw x y n => encXYN 0xD#4 x y n
  | .skp x => encXSS 0xE#4 x 0x9E#8
  | .sknp x => encXSS 0xE#4 x 0xA1#8
  | .ldVxDt x => encXSS 0xF#4 x 0x07#8
  | .ldVxK x => encXSS 0xF#4 x 0x0A#8
  | .ldDtVx x => encXSS 0xF#4 x 0x15#8
  | .ldStVx x => encXSS 0xF#4 x 0x18#8
  | .addI x => encXSS 0xF#4 x 0x1E#8
  | .ldF x => encXSS 0xF#4 x 0x29#8
  | .ldB x => encXSS 0xF#4 x 0x33#8
  | .dump x => encXSS 0xF#4 x 0x55#8
  | .load x => encXSS 0xF#4 x 0x65#8

/-! ### The opcode map as data (R57) -/

/-- One row of the opcode map: a word `w` is the instruction exactly when `w & mask` = `pattern`. -/
structure OpRow where
  mnemonic : String
  pattern : Word
  mask : Word
  deriving DecidableEq, Repr

/-- The row of R57 that an instruction belongs to. -/
def Instr.row : Instr → OpRow
  | .cls => ⟨"CLS", 0x00E0, 0xFFFF⟩
  | .ret => ⟨"RET", 0x00EE, 0xFFFF⟩
  | .jp _ => ⟨"JP_NNN", 0x1000, 0xF000⟩
  | .call _ => ⟨"CALL_NNN", 0x2000, 0xF000⟩
  | .seImm _ _ => ⟨"SE_Vx__NN", 0x3000, 0xF000⟩
  | .sneImm _ _ => ⟨"SNE_Vx__NN", 0x4000, 0xF000⟩
  | .seReg _ _ => ⟨"SE_Vx__Vy", 0x5000, 0xF00F⟩
  | .ldImm _ _ => ⟨"LD_Vx__NN", 0x6000, 0xF000⟩
  | .addImm _ _ => ⟨"ADD_Vx__NN", 0x7000, 0xF000⟩
  | .ldReg _ _ => ⟨"LD_Vx__Vy", 0x8000, 0xF00F⟩
  | .or _ _ => ⟨"OR_Vx__Vy", 0x8001, 0xF00F⟩
  | .and _ _ => ⟨"AND_Vx__Vy", 0x8002, 0xF00F⟩
  | .xor _ _ => ⟨"XOR_Vx__Vy", 0x8003, 0xF00F⟩
  | .addReg _ _ => ⟨"ADD_Vx__Vy", 0x8004, 0xF00F⟩
  | .sub _ _ => ⟨"SUB_Vx__Vy", 0x8005, 0xF00F⟩
  | .shr _ _ => ⟨"SHR_Vx", 0x8006, 0xF00F⟩
  | .subn _ _ => ⟨"SUBN_Vx__Vy", 0x8007, 0xF00F⟩
  | .shl _ _ => ⟨"SHL_Vx", 0x800E, 0xF00F⟩
  | .sneReg _ _ => ⟨"SNE_Vx__Vy", 0x9000, 0xF00F⟩
  | .ldI _ => ⟨"LD_I__NNN", 0xA000, 0xF000⟩
  | .jpV0 _ => ⟨"JP_V0__NNN", 0xB000, 0xF000⟩
  | .rnd _ _ => ⟨"RND_Vx__NN", 0xC000, 0xF000⟩
  | .drw _ _ _ => ⟨"DRW_Vx__Vy__N", 0xD000, 0xF000⟩
  | .skp _ => ⟨"SKP_Vx", 0xE09E, 0xF0FF⟩
  | .sknp _ => ⟨"SKNP_Vx", 0xE0A1, 0xF0FF⟩
  | .ldVxDt _ => ⟨"LD_Vx__DT", 0xF007, 0xF0FF⟩
  | .ldVxK _ => ⟨"LD_Vx__K", 0xF00A, 0xF0FF⟩
  | .ldDtVx _ => ⟨"LD_DT__Vx", 0xF015, 0xF0FF⟩
  | .ldStVx _ => ⟨"LD_ST__Vx", 0xF018, 0xF0FF⟩
  | .addI _ => ⟨"ADD_I__Vx", 0xF01E, 0xF0FF⟩
  | .ldF _ => ⟨"LD_F__Vx", 0xF029, 0xF0FF⟩
  | .ldB _ => ⟨"LD_B__Vx", 0xF033, 0xF0FF⟩
  | .dump _ => ⟨"LD__I___Vx", 0xF055, 0xF0FF⟩
  | .load _ => ⟨"LD_Vx___I", 0xF065, 0xF0FF⟩

/-- The 34 rows of R57, in opcode order. -/
def opcodeTable : List OpRow := [
  ⟨"CLS", 0x00E0, 0xFFFF⟩,
  ⟨"RET", 0x00EE, 0xFFFF⟩,
  ⟨"JP_NNN", 0x1000, 0xF000⟩,
  ⟨"CALL_NNN", 0x2000, 0xF000⟩,
  ⟨"SE_Vx__NN", 0x3000, 0xF000⟩,
  ⟨"SNE_Vx__NN", 0x4000, 0xF000⟩,
  ⟨"SE_Vx__Vy", 0x5000, 0xF00F⟩,
  ⟨"LD_Vx__NN", 0x6000, 0xF000⟩,
  ⟨"ADD_Vx__NN", 0x7000, 0xF000⟩,
  ⟨"LD_Vx__Vy", 0x8000, 0xF00F⟩,
  ⟨"OR_Vx__Vy", 0x8001, 0xF00F⟩,
  ⟨"AND_Vx__Vy", 0x8002, 0xF00F⟩,
  ⟨"XOR_Vx__Vy", 0x8003, 0xF00F⟩,
  ⟨"ADD_Vx__Vy", 0x8004, 0xF00F⟩,
  ⟨"SUB_Vx__Vy", 0x8005, 0xF00F⟩,
  ⟨"SHR_Vx", 0x8006, 0xF00F⟩,
  ⟨"SUBN_Vx__Vy", 0x8007, 0xF00F⟩] ++ [
  ⟨"SHL_Vx", 0x800E, 0xF00F⟩,
  ⟨"SNE_Vx__Vy", 0x9000, 0xF00F⟩,
  ⟨"LD_I__NNN", 0xA000, 0xF000⟩,
  ⟨"JP_V0__NNN", 0xB000, 0xF000⟩,
  ⟨"RND_Vx__NN", 0xC000, 0xF000⟩,
  ⟨"DRW_Vx__Vy__N", 0xD000, 0xF000⟩,
  ⟨"SKP_Vx", 0xE09E, 0xF0FF⟩,
  ⟨"SKNP_Vx", 0xE0A1, 0xF0FF⟩,
  ⟨"LD_Vx__DT", 0xF007, 0xF0FF⟩,
  ⟨"LD_Vx__K", 0xF00A, 0xF0FF⟩,
  ⟨"LD_DT__Vx", 0xF015, 0xF0FF⟩,
  ⟨"LD_ST__Vx", 0xF018, 0xF0FF⟩,
  ⟨"ADD_I__Vx", 0xF01E, 0xF0FF⟩,
  ⟨"LD_F__Vx", 0xF029, 0xF0FF⟩,
  ⟨"LD_B__Vx", 0xF033, 0xF0FF⟩,
  ⟨"LD__I___Vx", 0xF055, 0xF0FF⟩,
  ⟨"LD_Vx___I", 0xF065, 0xF0FF⟩]

end Sys2Proof
end

