-- ==== Sys2Proof/Config.lean ====
section
/-! DEFINITION. The configuration of CORE (00_scope R7, R8): every parameter the source leaves open is a field,
and no rule of the model names its number. `Config.default` is the configuration the spec takes for this
hardware. The values the spec leaves free are opaque. Log 5 (defaults), log 6 (priority), log 3 and log 4 (free
values), log 22 (where the configuration stands). -/

namespace Sys2Proof

/-- `VF_WRITE_PRIORITY`: which write is last when an arithmetic or shift instruction names register 15 as
its target (R76). -/
inductive VfPriority where
  | flag
  | result
  deriving DecidableEq, Repr

/-- The parameters of R7, constant for the life of a run. -/
structure Config where
  /-- `MEM_SIZE`: valid addresses are 0 to `MEM_SIZE` - 1 (D1) -/
  memSize : Nat
  /-- `PROGRAM_START`: where the image is loaded and `pc` starts (D2) -/
  programStart : Nat
  /-- `FONT_BASE`: the address of glyph 0 (R6, R35) -/
  fontBase : Nat
  /-- `FONT_TABLE`: 16 glyphs of 5 bytes, glyph 0 first (R35, D3) -/
  fontTable : List Byte
  /-- `DISPLAY_W`: columns of the pixel buffer (D4) -/
  displayW : Nat
  /-- `DISPLAY_H`: rows of the pixel buffer (D4) -/
  displayH : Nat
  /-- `STACK_DEPTH`: greatest number of saved return addresses (D5) -/
  stackDepth : Nat
  /-- `TIMER_BITS`: the width of the timer (R24, D18) -/
  timerBits : Nat
  /-- `MEM_INIT`: which of the free contents of memory `initialize` leaves outside font table and image
  (`Config.memContent`, D22; log 3) -/
  memInit : Nat
  /-- `VF_WRITE_PRIORITY` (R76, D15; log 6) -/
  vfWritePriority : VfPriority
  deriving DecidableEq, Repr

/-- The byte at an address in the n-th content of memory. A FREE VALUE: the spec calls `MEM_INIT` unspecified,
"any value, the same for the whole run" (R34, R128, D22); log 3. -/
opaque Config.memContent : Nat → Nat → Byte

/-- `MEM_INIT[a]`. -/
def Config.memInitByte (c : Config) (a : Nat) : Byte := Config.memContent c.memInit a

/-- `rnd()`: the byte the HOST supplies at the n-th draw of the run. A FREE VALUE under no law (R89, D17);
log 4. -/
opaque Config.rndIn : Nat → Byte

/-- The customary glyphs 0 to F, the default of `FONT_TABLE` (R35, D3). -/
def Config.customaryGlyphs : List Byte :=
  [0xF0, 0x90, 0x90, 0x90, 0xF0] ++ [0x20, 0x60, 0x20, 0x20, 0x70] ++
  [0xF0, 0x10, 0xF0, 0x80, 0xF0] ++ [0xF0, 0x10, 0xF0, 0x10, 0xF0] ++
  [0x90, 0x90, 0xF0, 0x10, 0x10] ++ [0xF0, 0x80, 0xF0, 0x10, 0xF0] ++
  [0xF0, 0x80, 0xF0, 0x90, 0xF0] ++ [0xF0, 0x10, 0x20, 0x40, 0x40] ++
  [0xF0, 0x90, 0xF0, 0x90, 0xF0] ++ [0xF0, 0x90, 0xF0, 0x10, 0xF0] ++
  [0xF0, 0x90, 0xF0, 0x90, 0x90] ++ [0xE0, 0x90, 0xE0, 0x90, 0xE0] ++
  [0xF0, 0x80, 0x80, 0x80, 0xF0] ++ [0xE0, 0x90, 0x90, 0x90, 0xE0] ++
  [0xF0, 0x80, 0xF0, 0x80, 0xF0] ++ [0xF0, 0x80, 0xF0, 0x80, 0x80]

/-- The column "default" of R7. -/
def Config.default : Config where
  memSize := 4096
  programStart := 0x200
  fontBase := 0
  fontTable := Config.customaryGlyphs
  displayW := 64
  displayH := 32
  stackDepth := 16
  timerBits := 8
  memInit := 0
  vfWritePriority := .flag

/-- The constraints a configuration must satisfy (R8); the last two are the shape of the font table (R6) and the
width that direct transfers from 8-bit registers need (R24, D18; log 5). -/
abbrev Config.Valid (c : Config) : Prop :=
  c.memSize ≤ 65536 ∧ c.programStart + 2 ≤ c.memSize ∧ c.fontBase + 80 ≤ c.programStart ∧
  8 ≤ c.displayW ∧ 1 ≤ c.displayH ∧ 1 ≤ c.stackDepth ∧
  c.fontTable.length = 80 ∧ 8 ≤ c.timerBits

end Sys2Proof
end

