-- ==== Sys2Proof/Machine/State.lean ====
section
/-! DEFINITION. The architectural state of CORE (10_state R17 to R30), its fault vocabulary (60_exceptions
R108) and its state after reset (R34, R128). -/

namespace Sys2Proof.Machine

/-- The six faults of R108, with the information each records. A fault is TAKEN: the step that raises it
answers a next state in which the latch `halt` holds it (R112), so `step` and `exec` never answer
`Outcome.fault` (log 1). Each is safe: the machine halts where the repository's program might go on. -/
inductive Fault where
  /-- Code 1. Raised by the fetch of any step when `pc` + 1 is outside memory (R41, R109). Safe. -/
  | fetchOutOfBounds
  /-- Code 2. Raised by DRW, LD B, LD [I],Vx, LD Vx,[I] when the highest address, recorded here as an
  unbounded integer, is outside memory (R40, R110). Safe. -/
  | dataOutOfBounds (address : Nat)
  /-- Code 3. Raised by RET when the stack is empty (R67, R111). Safe. -/
  | stackUnderflow
  /-- Code 4. Raised by CALL when the stack is full (R69, R111). Safe if the repository's stack is not
  shallower than `STACK_DEPTH` (D5). -/
  | stackOverflow
  /-- Code 5. Raised by DRW when a set sprite bit lands outside the pixel buffer; records the first such
  pixel in row-major order (R99, R113). Safe. -/
  | drawOutOfBounds (column row : Nat)
  /-- Code 6. Raised by SKP and SKNP when the register that names the key holds more than 15; records its
  value (R101, R102, R114). Safe. -/
  | keyIndexOutOfRange (index : Byte)
  deriving DecidableEq, Repr

/-- Why a step has no meaning. Nothing raises it: every instruction has its meaning. -/
inductive Refusal where
  /-- An instruction not modelled yet, by its mnemonic. Raised by no arm of `exec`. Safe. -/
  | notModelled (mnemonic : String)
  deriving DecidableEq, Repr

/-- What the latch records of a fault (R29, R112): the fault with its information, the value of `pc` at the
start of the faulting step, and the instruction word, absent for a fetch fault. -/
structure FaultRecord where
  fault : Fault
  pc : Addr
  word : Option Word
  deriving DecidableEq, Repr

/-- The memory `mem` (R28) as (address, byte) pairs: addresses strictly rising, no entry equal to what an
unlisted address is known to hold (`Memory.wf`, log 3). -/
abbrev Memory := List Host.Cell

/-- The pixel buffer `P` (R27) as the list of its set cells (column, row), strictly rising by column, then row,
each a cell of the `DISPLAY_W` by `DISPLAY_H` grid (`Pixels.wf`, log 12): `P[px][py]` is true exactly if (`px`, `py`)
is listed. -/
abbrev Pixels := List (Nat × Nat)

/-- The state of CORE (R17 to R30). Two fields are the model's own: the configuration `cfg` (log 22) and the
counter `draws` (log 4). -/
structure State where
  /-- the configuration (R7): a parameter of the step and not state of CORE (R31), held here because a step
  has no other argument; no operation writes it (log 22) -/
  cfg : Config
  /-- `x[0]` to `x[15]`; `x[15]` is the flag register VF (R17, R18) -/
  regs : Vector Byte 16
  /-- the address register `I` (R20) -/
  i : Addr
  /-- the program counter (R21) -/
  pc : Addr
  /-- the call stack `S`, the value pushed last at the head (R23) -/
  stack : List Addr
  /-- the timer `DT`, an unsigned counter of `TIMER_BITS` bits (R24) -/
  dt : Nat
  /-- the key state `K`; true is pressed (R26) -/
  keys : Vector Bool 16
  /-- the pixel buffer `P`; true is set (R27) -/
  pixels : Pixels
  /-- the memory `mem` (R28) -/
  mem : Memory
  /-- the fault latch `halt` (R29) -/
  halt : Option FaultRecord
  /-- how many random bytes have been drawn: THE MODEL'S OWN counter, by which each draw is a fresh free
  value (R89, log 4) -/
  draws : Nat
  deriving DecidableEq, Repr

/-- The state after `initialize` with the empty image, under a configuration (R34, R128, R130): everything zero,
clear, empty or released, `pc` at `PROGRAM_START`, no fault, and memory as `initialize` leaves it, with nothing
listed. `draws` starts at 0 by DESIGN CHOICE (log 4). -/
def State.resetOf (c : Config) : State where
  cfg := c
  regs := Vector.replicate 16 0
  i := 0
  pc := BitVec.ofNat 16 c.programStart
  stack := []
  dt := 0
  keys := Vector.replicate 16 false
  pixels := []
  mem := []
  halt := none
  draws := 0

/-- The state right after reset, under the configuration the spec takes for this hardware (R7). Log 8. -/
def State.reset : State := State.resetOf Config.default

end Sys2Proof.Machine
end

