-- ==== Sys2Proof/Machine/Ops.lean ====
section
/-! DEFINITION. The named operations over registers, memory, stack, pixels, keys and the fault latch. Every
meaning reads and writes the state through these. -/

namespace Sys2Proof.Machine

/-- What a step, or the execution of one instruction, answers. -/
abbrev Answer := Host.Outcome State Fault Refusal

/-! ### One update for each field (but `cfg`, which nothing writes) -/

/-- Write the general registers. -/
def State.setRegs (s : State) (v : Vector Byte 16) : State := { s with regs := v }
/-- Write `I`. -/
def State.setI (s : State) (a : Addr) : State := { s with i := a }
/-- Write `pc`. -/
def State.setPc (s : State) (a : Addr) : State := { s with pc := a }
/-- Write `S`. -/
def State.setStack (s : State) (l : List Addr) : State := { s with stack := l }
/-- Write `DT`. -/
def State.setDt (s : State) (v : Nat) : State := { s with dt := v }
/-- Write `K`. -/
def State.setKeys (s : State) (k : Vector Bool 16) : State := { s with keys := k }
/-- Write `P`. -/
def State.setPixels (s : State) (p : Pixels) : State := { s with pixels := p }
/-- Write `mem`. -/
def State.setMem (s : State) (m : Memory) : State := { s with mem := m }
/-- Write `halt`. -/
def State.setHalt (s : State) (h : Option FaultRecord) : State := { s with halt := h }
/-- Write the model's draw counter. -/
def State.setDraws (s : State) (n : Nat) : State := { s with draws := n }

/-! ### General registers (R17) -/

/-- `x[r]`. No register is hard-wired and no index is invalid (R17). -/
def State.reg (s : State) (r : Reg) : Byte := s.regs.get r

/-- `x[r] <- v`. -/
def State.setReg (s : State) (r : Reg) (v : Byte) : State := s.setRegs (s.regs.set r.val v r.isLt)

/-- Register 15, the flag register VF (R18). -/
def vf : Reg := 15

/-! ### Memory (R14, R37, R44, R45) -/

/-- The byte the font table gives address `a`, if it lies in the table (R34, R35). -/
def fontByte? (c : Config) (a : Nat) : Option Byte :=
  if c.fontBase ≤ a then c.fontTable[a - c.fontBase]? else none

/-- What an unlisted address reads as: its byte of the font table, else the free value `MEM_INIT`
(R34, R45; log 3). -/
def Memory.unlisted (c : Config) (a : Nat) : Byte := (fontByte? c a).getD (c.memInitByte a)

/-- The byte listed for address `a`. -/
def Memory.find? : Memory → Nat → Option Byte
  | [], _ => none
  | (b, v) :: m, a => if b = a then some v else Memory.find? m a

/-- The byte at address `a`. -/
def Memory.read (m : Memory) (c : Config) (a : Nat) : Byte := (m.find? a).getD (Memory.unlisted c a)

/-- The memory without an entry for `a`. -/
def Memory.erase : Memory → Nat → Memory
  | [], _ => []
  | (b, v) :: m, a => if b = a then m else (b, v) :: Memory.erase m a

/-- The memory with `v` listed at `a`, addresses kept rising. -/
def Memory.insert : Memory → Nat → Byte → Memory
  | [], a, v => [(a, v)]
  | (b, u) :: m, a, v =>
    if a < b then (a, v) :: (b, u) :: m
    else if b = a then (a, v) :: m
    else (b, u) :: Memory.insert m a v

/-- Store `v` at `a`, in canonical form: the byte an unlisted address is known to hold is not listed. -/
def Memory.write (m : Memory) (c : Config) (a : Nat) (v : Byte) : Memory :=
  if fontByte? c a = some v then m.erase a else m.insert a v

/-- Store the bytes of a list at `a`, `a` + 1, ..., in ascending order. -/
def Memory.writeList (m : Memory) (c : Config) (a : Nat) : List Byte → Memory
  | [] => m
  | v :: vs => (m.write c a v).writeList c (a + 1) vs

/-- The canonical form: addresses strictly rising and below `MEM_SIZE`, and no entry equal to what an
unlisted address is known to hold (log 3). -/
abbrev Memory.wf (m : Memory) (c : Config) : Prop :=
  m.Pairwise (fun d e => d.1 < e.1) ∧ ∀ d ∈ m, d.1 < c.memSize ∧ fontByte? c d.1 ≠ some d.2

/-- `MemRead(a, 1)` (R14). The instruction has checked that `a` is below `MEM_SIZE` (R40). -/
def State.readByte (s : State) (a : Nat) : Byte := s.mem.read s.cfg a

/-- `MemWrite(a, 1, v)` (R14). The instruction has checked that `a` is below `MEM_SIZE` (R40). -/
def State.writeByte (s : State) (a : Nat) (v : Byte) : State := s.setMem (s.mem.write s.cfg a v)

/-! ### Program counter (R21) -/

/-- `pc <- (pc + 2) mod 65536`: the advance of the fetch, and a skip that is taken. -/
def State.advancePc (s : State) : State := s.setPc (s.pc + 2)

/-- `pc <- (pc - 2) mod 65536`: the rewind of the key wait (R104). -/
def State.rewindPc (s : State) : State := s.setPc (s.pc - 2)

/-! ### Call stack (R23) -/

/-- `push(S, a)`. -/
def State.push (s : State) (a : Addr) : State := s.setStack (a :: s.stack)

/-! ### Timer (R24) -/

/-- A value as the timer of `TIMER_BITS` bits holds it; an 8-bit value is held as it is (log 5). -/
def timerValue (c : Config) (v : Nat) : Nat := v % 2 ^ c.timerBits

/-! ### Pixel buffer (R27, R37) -/

/-- Whether (`px`, `py`) is a cell of the buffer. -/
abbrev onScreen (c : Config) (px py : Nat) : Prop := px < c.displayW ∧ py < c.displayH

/-- The order of the cells: by column, then by row. -/
abbrev cellBefore (t u : Nat × Nat) : Prop := t.1 < u.1 ∨ (t.1 = u.1 ∧ t.2 < u.2)

/-- `P[px][py]`. -/
def Pixels.get (p : Pixels) (px py : Nat) : Bool := decide ((px, py) ∈ p)

/-- The buffer with a cell listed as set, the order kept. -/
def Pixels.insert : Pixels → Nat × Nat → Pixels
  | [], t => [t]
  | u :: p, t =>
    if cellBefore t u then t :: u :: p
    else if u = t then u :: p
    else u :: Pixels.insert p t

/-- `P[px][py] <- b`. -/
def Pixels.set (p : Pixels) (px py : Nat) (b : Bool) : Pixels :=
  if b then Pixels.insert p (px, py) else p.filter fun t => !decide (t = (px, py))

/-- The buffer with every cell clear. -/
def Pixels.clear : Pixels := []

/-- The canonical form: cells strictly rising, each one of the grid (R36). -/
abbrev Pixels.wf (p : Pixels) (c : Config) : Prop :=
  p.Pairwise cellBefore ∧ ∀ t ∈ p, onScreen c t.1 t.2

/-- `P[px][py]` of a state. -/
def State.pixel (s : State) (px py : Nat) : Bool := Pixels.get s.pixels px py

/-! ### Keys (R26) -/

/-- `K[k]`. -/
def State.key (s : State) (k : Key) : Bool := s.keys.get k

/-- `K[k] <- b`. -/
def State.setKey (s : State) (k : Key) (b : Bool) : State := s.setKeys (s.keys.set k.val b k.isLt)

/-! ### Random byte (R89) -/

/-- `rnd()`: the free byte of this draw. -/
def State.rnd (s : State) : Byte := Config.rndIn s.draws

/-- Count the draw, so that the next one is another free byte. -/
def State.countDraw (s : State) : State := s.setDraws (s.draws + 1)

/-! ### Taking a fault (R15, R112). There is no return from one (R116): only `initialize` clears the latch. -/

/-- `raise F(info)`: the latch records the fault, the `pc` at the start of the step and the word; nothing
else is written. -/
def State.raise (s : State) (f : Fault) (startPc : Addr) (w : Option Word) : State :=
  s.setHalt (some ⟨f, startPc, w⟩)

/-- A fault raised during `execute` of the instruction `i`: the fetch has already advanced `pc` by 2, and
that stays (R112). The fetched word is the word of `i`, since decoding loses no bit (log 13). -/
def raiseExec (f : Fault) (i : Instr) (s : State) : Answer :=
  .next (s.raise f (s.pc - 2) (some (encode i)))

end Sys2Proof.Machine
end

