-- ==== Sys2Proof/Machine/Operands.lean ====
section
/-! DEFINITION. The operand forms (30_encoding R55; 42_address_memory R96; 43_display R97): registers,
immediates, the address operand, the bytes at `I` + k, the sprite at `I`, a key named by a register. -/

namespace Sys2Proof.Machine

/-- `zext_16(NNN)` (R55). -/
def zextAddr (nnn : Addr12) : Addr := nnn.setWidth 16

/-- `zext_16(x[r])`. -/
def State.regWide (s : State) (r : Reg) : Addr := (s.reg r).setWidth 16

/-- The effective address `I` + k, an unbounded integer (R39). -/
def State.effAddr (s : State) (k : Nat) : Nat := s.i.toNat + k

/-- The bounds check of R40 for an instruction whose highest address is `I` + `kMax`: the fault
`DataOutOfBounds` or, when every address exists, what the instruction does. -/
def checkData (kMax : Nat) (i : Instr) (s : State) (body : Answer) : Answer :=
  if s.cfg.memSize ≤ s.effAddr kMax then raiseExec (.dataOutOfBounds (s.effAddr kMax)) i s
  else body

/-- The registers 0 to `x`, ascending: what a dump and a load run over (R94, R95). -/
def regsUpTo (x : Reg) : List Reg := (List.finRange 16).filter (· ≤ x)

/-- `I <- (I + X + 1) mod 65536`: the post-increment of dump and load (R94, R95). -/
def State.bumpI (s : State) (x : Reg) : State := s.setI (s.i + BitVec.ofNat 16 (x.val + 1))

/-- The key named by `x[x]`, or the fault `KeyIndexOutOfRange` when it holds more than 15 (R101, R102). -/
def withKey (x : Reg) (i : Instr) (s : State) (body : Key → Answer) : Answer :=
  if h : (s.reg x).toNat < 16 then body ⟨(s.reg x).toNat, h⟩
  else raiseExec (.keyIndexOutOfRange (s.reg x)) i s

/-- The `n` sprite bytes at `I`, row 0 first (R97). -/
def State.spriteRows (s : State) (n : Nat) : List Byte :=
  (List.range n).map fun r => s.readByte (s.effAddr r)

/-- The targets of the set bits of one sprite row, column 0 (bit 7) first (R97). -/
def rowTargets (px py : Nat) (row : Byte) : List (Nat × Nat) :=
  ((List.range 8).filter fun c => row.getLsbD (7 - c)).map fun c => (px + c, py)

/-- The targets of all set sprite bits in row-major order, the corner at (`px`, `py`): coordinates are
unbounded integers, never wrapped (R97, R99). -/
def spriteTargets (px py : Nat) : List Byte → List (Nat × Nat)
  | [] => []
  | row :: rows => rowTargets px py row ++ spriteTargets px (py + 1) rows

/-- The highest pressed key: the scan of R104 in ascending order, in which a later match overwrites an
earlier one. -/
def State.scanKeys (s : State) : Option Key :=
  (List.finRange 16).foldl (fun found k => if s.key k then some k else found) none

end Sys2Proof.Machine
end

