-- ==== Sys2Proof/Machine/AddressMemory.lean ====
section
/-! DEFINITION. The address-register and memory instructions (42_address_memory R90 to R96). Every address is
checked before anything is written (R40). -/

namespace Sys2Proof.Machine

/-- `LD I, NNN` (R90). -/
def execLdI (nnn : Addr12) (s : State) : Answer := .next (s.setI (zextAddr nnn))

/-- `ADD I, Vx` (R91): modulo 65536, no flag, not masked to 12 bits. -/
def execAddI (x : Reg) (s : State) : Answer := .next (s.setI (s.i + s.regWide x))

/-- `LD F, Vx` (R92): `FONT_BASE` + 5 times the whole 8-bit value; arithmetic on `I` is 16 bits wide (R88). -/
def execLdF (x : Reg) (s : State) : Answer :=
  .next (s.setI (BitVec.ofNat 16 (s.cfg.fontBase + 5 * (s.reg x).toNat)))

/-- The decimal digits of a byte, hundreds first (R93). -/
def bcdDigits (v : Byte) : List Byte :=
  [BitVec.ofNat 8 (v.toNat / 100), BitVec.ofNat 8 (v.toNat / 10 % 10), BitVec.ofNat 8 (v.toNat % 10)]

/-- `LD B, Vx` (R93): three digits at `I`, `I` + 1, `I` + 2; `I` is not changed. -/
def execLdB (x : Reg) (s : State) : Answer :=
  checkData 2 (.ldB x) s (.next (s.setMem (s.mem.writeList s.cfg (s.effAddr 0) (bcdDigits (s.reg x)))))

/-- `LD [I], Vx` (R94): registers 0 to X to memory, ascending, then `I` moves past them. -/
def execDump (x : Reg) (s : State) : Answer :=
  checkData x.val (.dump x) s
    (.next (((regsUpTo x).foldl (fun t k => t.writeByte (s.effAddr k.val) (s.reg k)) s).bumpI x))

/-- `LD Vx, [I]` (R95): registers 0 to X from memory, ascending, then `I` moves past them. -/
def execLoad (x : Reg) (s : State) : Answer :=
  checkData x.val (.load x) s
    (.next (((regsUpTo x).foldl (fun t k => t.setReg k (s.readByte (s.effAddr k.val))) s).bumpI x))

end Sys2Proof.Machine
end

