-- ==== Sys2Proof/Machine/ControlFlow.lean ====
section
/-! DEFINITION. The control flow instructions (40_control_flow R67 to R75). On entry `pc` is the address of the
instruction plus 2. No target is checked for alignment or range: the check is the next fetch's (R75 d). -/

namespace Sys2Proof.Machine

/-- A conditional skip: `pc <- (pc + 2) mod 65536` if the condition holds (R70 to R73, R101, R102). -/
def skipIf (c : Bool) (s : State) : Answer := .next (if c then s.advancePc else s)

/-- `RET` (R67): pop the stack into `pc`, or `StackUnderflow`. -/
def execRet (s : State) : Answer :=
  match s.stack with
  | [] => raiseExec .stackUnderflow .ret s
  | a :: rest => .next ((s.setStack rest).setPc a)

/-- `JP NNN` (R68). -/
def execJp (nnn : Addr12) (s : State) : Answer := .next (s.setPc (zextAddr nnn))

/-- `CALL NNN` (R69): push the address after the CALL, then jump, or `StackOverflow` at full depth. -/
def execCall (nnn : Addr12) (s : State) : Answer :=
  if s.cfg.stackDepth ≤ s.stack.length then raiseExec .stackOverflow (.call nnn) s
  else .next ((s.push s.pc).setPc (zextAddr nnn))

/-- `SE Vx, NN` (R70). -/
def execSeImm (x : Reg) (nn : Byte) (s : State) : Answer := skipIf (s.reg x == nn) s

/-- `SNE Vx, NN` (R71). -/
def execSneImm (x : Reg) (nn : Byte) (s : State) : Answer := skipIf (s.reg x != nn) s

/-- `SE Vx, Vy` (R72). -/
def execSeReg (x y : Reg) (s : State) : Answer := skipIf (s.reg x == s.reg y) s

/-- `SNE Vx, Vy` (R73). -/
def execSneReg (x y : Reg) (s : State) : Answer := skipIf (s.reg x != s.reg y) s

/-- `JP V0, NNN` (R74): the sum is not masked to 12 bits. -/
def execJpV0 (nnn : Addr12) (s : State) : Answer := .next (s.setPc (zextAddr nnn + s.regWide 0))

end Sys2Proof.Machine
end

