-- ==== Sys2Proof/Machine/Flags.lean ====
section
/-! DEFINITION. Every flag computation (10_state R18; 41_load_alu R76, R83 to R87; 43_display R99). The flag is
the 8-bit value 0 or 1 in register 15. -/

namespace Sys2Proof.Machine

/-- A flag as the 8-bit value a flag-writing instruction writes: 0 or 1, never one bit only (R18). -/
def flagByte (b : Bool) : Byte := if b then 1 else 0

/-- The carry of `a + b`: 1 if the sum exceeds 255 (R83). -/
def carryOut (a b : Byte) : Byte := flagByte (decide (a.toNat + b.toNat > 255))

/-- The "not borrow" of `a - b`: 0 if `b` > `a`, else 1 (R84, R86). -/
def notBorrow (a b : Byte) : Byte := flagByte (!decide (b.toNat > a.toNat))

/-- The bit a right shift by one drops: bit 0 (R85). -/
def shiftedOutRight (a : Byte) : Byte := flagByte (a.getLsbD 0)

/-- The bit a left shift by one drops: bit 7 (R87). -/
def shiftedOutLeft (a : Byte) : Byte := flagByte (a.getLsbD 7)

/-- `write_result_and_flag(X, r, c)` of R76 under a write priority: when X is 15 the last write stays. -/
def writeResultAndFlag (priority : VfPriority) (x : Reg) (r c : Byte) (s : State) : State :=
  match priority with
  | .flag => (s.setReg x r).setReg vf c
  | .result => (s.setReg vf c).setReg x r

end Sys2Proof.Machine
end

