-- ==== Sys2Proof/Machine/Display.lean ====
section
/-! DEFINITION. The display instructions (43_display R97 to R100). -/

namespace Sys2Proof.Machine

/-- `CLS` (R98). -/
def execCls (s : State) : Answer := .next (s.setPixels Pixels.clear)

/-- One target of the drawing loop of R99: note a collision if the pixel is set, then toggle it. -/
def drawPixel (acc : Pixels × Bool) (t : Nat × Nat) : Pixels × Bool :=
  (Pixels.set acc.1 t.1 t.2 (!Pixels.get acc.1 t.1 t.2), acc.2 || Pixels.get acc.1 t.1 t.2)

/-- The drawing loop of R99 over the targets in row-major order: the buffer and the collision flag. -/
def drawTargets (p : Pixels) (targets : List (Nat × Nat)) : Pixels × Bool :=
  targets.foldl drawPixel (p, false)

/-- What DRW does once its rows are known to lie in memory (R99): `DrawOutOfBounds` for the first target
outside the buffer, else the toggled pixels and the collision flag in VF. -/
def drawSprite (targets : List (Nat × Nat)) (i : Instr) (s : State) : Answer :=
  match targets.find? fun t => !decide (onScreen s.cfg t.1 t.2) with
  | some t => raiseExec (.drawOutOfBounds t.1 t.2) i s
  | none =>
    let drawn := drawTargets s.pixels targets
    .next ((s.setPixels drawn.1).setReg vf (flagByte drawn.2))

/-- `DRW Vx, Vy, N` (R99): coordinates are sampled first; with N = 0 no byte is touched and no address is
checked; the memory check precedes the pixel check (R115). -/
def execDrw (x y : Reg) (n : Nibble) (s : State) : Answer :=
  let targets := spriteTargets (s.reg x).toNat (s.reg y).toNat (s.spriteRows n.toNat)
  if n.toNat = 0 then drawSprite targets (.drw x y n) s
  else checkData (n.toNat - 1) (.drw x y n) s (drawSprite targets (.drw x y n) s)

end Sys2Proof.Machine
end

