-- ==== Sys2Proof/Machine/KeysTimers.lean ====
section
/-! DEFINITION. The key and timer instructions (44_keys_timers R101 to R107). -/

namespace Sys2Proof.Machine

/-- `SKP Vx` (R101): skip if the key is pressed, or `KeyIndexOutOfRange`. -/
def execSkp (x : Reg) (s : State) : Answer := withKey x (.skp x) s fun k => skipIf (s.key k) s

/-- `SKNP Vx` (R102): skip if the key is not pressed, or `KeyIndexOutOfRange`. -/
def execSknp (x : Reg) (s : State) : Answer := withKey x (.sknp x) s fun k => skipIf (!s.key k) s

/-- `LD Vx, DT` (R103): the timer holds 8 bits at most (R36). -/
def execLdVxDt (x : Reg) (s : State) : Answer := .next (s.setReg x (BitVec.ofNat 8 s.dt))

/-- `LD Vx, K` (R104): the highest pressed key, or, with none pressed, `pc` back to this instruction. -/
def execLdVxK (x : Reg) (s : State) : Answer :=
  match s.scanKeys with
  | some k => .next (s.setReg x (BitVec.ofNat 8 k.val))
  | none => .next s.rewindPc

/-- `LD DT, Vx` (R105). -/
def execLdDtVx (x : Reg) (s : State) : Answer := .next (s.setDt (timerValue s.cfg (s.reg x).toNat))

/-- `LD ST, Vx` (R106): accepted, with no effect. -/
def execLdStVx (_x : Reg) (s : State) : Answer := .next s

end Sys2Proof.Machine
end

