-- ==== Sys2Proof/Machine/LoadAlu.lean ====
section
/-! DEFINITION. Loads, arithmetic, logic, shifts and the random load (41_load_alu R76 to R89). Source registers
are read before anything is written (R76); arithmetic is unsigned and modulo 256 (R88). -/

namespace Sys2Proof.Machine

/-- Write the result to `x[X]` and the flag to VF under the configured priority (R76). -/
def nextWithFlag (x : Reg) (r c : Byte) (s : State) : Answer :=
  .next (writeResultAndFlag s.cfg.vfWritePriority x r c s)

/-- `LD Vx, NN` (R77). -/
def execLdImm (x : Reg) (nn : Byte) (s : State) : Answer := .next (s.setReg x nn)

/-- `ADD Vx, NN` (R78): no flag. -/
def execAddImm (x : Reg) (nn : Byte) (s : State) : Answer := .next (s.setReg x (s.reg x + nn))

/-- `LD Vx, Vy` (R79). -/
def execLdReg (x y : Reg) (s : State) : Answer := .next (s.setReg x (s.reg y))

/-- `OR Vx, Vy` (R80): no flag. -/
def execOr (x y : Reg) (s : State) : Answer := .next (s.setReg x (s.reg x ||| s.reg y))

/-- `AND Vx, Vy` (R81): no flag. -/
def execAnd (x y : Reg) (s : State) : Answer := .next (s.setReg x (s.reg x &&& s.reg y))

/-- `XOR Vx, Vy` (R82): no flag. -/
def execXor (x y : Reg) (s : State) : Answer := .next (s.setReg x (s.reg x ^^^ s.reg y))

/-- `ADD Vx, Vy` (R83): VF is the carry. -/
def execAddReg (x y : Reg) (s : State) : Answer :=
  let a := s.reg x
  let b := s.reg y
  nextWithFlag x (a + b) (carryOut a b) s

/-- `SUB Vx, Vy` (R84): x[X] - x[Y]; VF is "not borrow". -/
def execSub (x y : Reg) (s : State) : Answer :=
  let a := s.reg x
  let b := s.reg y
  nextWithFlag x (a - b) (notBorrow a b) s

/-- `SHR Vx` (R85): logical, by one, in place; Y is ignored. -/
def execShr (x _y : Reg) (s : State) : Answer :=
  let a := s.reg x
  nextWithFlag x (a >>> 1) (shiftedOutRight a) s

/-- `SUBN Vx, Vy` (R86): x[Y] - x[X] into x[X]; VF is "not borrow". -/
def execSubn (x y : Reg) (s : State) : Answer :=
  let a := s.reg x
  let b := s.reg y
  nextWithFlag x (b - a) (notBorrow b a) s

/-- `SHL Vx` (R87): by one, in place; Y is ignored. -/
def execShl (x _y : Reg) (s : State) : Answer :=
  let a := s.reg x
  nextWithFlag x (a <<< 1) (shiftedOutLeft a) s

/-- `RND Vx, NN` (R89): a free byte AND the mask; the draw is counted, so that the next is another one. -/
def execRnd (x : Reg) (nn : Byte) (s : State) : Answer := .next (s.countDraw.setReg x (s.rnd &&& nn))

end Sys2Proof.Machine
end

