-- ==== Sys2Proof/Machine/Fetch.lean ====
section
/-! DEFINITION. Instruction fetch (20_memory R41, R42, R43, R51), and placing an instruction where the next fetch
reads it. -/

namespace Sys2Proof.Machine

/-- What `fetchNext` answers: the word and the state with `pc` advanced, or the state in which the fault
`FetchOutOfBounds` has been taken. -/
inductive Fetched where
  | word (w : Word) (s : State)
  | raised (s : State)
  deriving DecidableEq, Repr

/-- The two bytes at `pc` as one word, the byte at the lower address high (R42); `mem` is read directly, so
a store is seen by the next fetch (R51), at any alignment of `pc` (R43). -/
def State.wordAtPc (s : State) : Word :=
  wordOfBytes (s.readByte s.pc.toNat) (s.readByte (s.pc.toNat + 1))

/-- `fetchNext` (R41): both bytes must exist; on the fault `pc` is left unchanged (R109). -/
def fetchNext (s : State) : Fetched :=
  if s.cfg.memSize ≤ s.pc.toNat + 1 then .raised (s.raise .fetchOutOfBounds s.pc none)
  else .word s.wordAtPc s.advancePc

/-- The state with `pc` where an instruction can be fetched: as it is, or, where no two bytes exist at `pc`,
at `PROGRAM_START` as after `initialize`. -/
def State.fetchable (s : State) : State :=
  if s.cfg.memSize ≤ s.pc.toNat + 1 then s.setPc (BitVec.ofNat 16 s.cfg.programStart) else s

/-- The state with the word `w` stored where the next fetch reads, and the latch clear, as after a load of a
program there: nothing then stands between the machine and running `w` (log 8). -/
def State.placeWord (s : State) (w : Word) : State :=
  let t := s.fetchable
  (t.setMem (t.mem.writeList t.cfg t.pc.toNat [highByte w, lowByte w])).setHalt none

end Sys2Proof.Machine
end

