-- ==== Sys2Proof/Machine/Execute.lean ====
section
/-! DEFINITION. One instruction step (00_scope R9; 10_state R32 `step_req`): `fetchNext`, then `execute` of its
word; nothing happens between the two. -/

namespace Sys2Proof.Machine

/-- An unknown word executes as a no-operation: `pc` stays past it and nothing else changes (R62). The
diagnostic `unknown_op` is an output and no state (R63; Ports.lean). -/
def execUnknown (_u : UnknownWord) (s : State) : Answer := .next s

/-- `execute(w)` (R58). -/
def executeWord (w : Word) (s : State) : Answer :=
  match decode w with
  | .instr i => exec i s
  | .unknown u => execUnknown u s

/-- `step_req`: while `halt` is set nothing happens (R116); a fetch fault ends the step (R115); else the
fetched word is executed. -/
def stepRequest (s : State) : Answer :=
  match s.halt with
  | some _ => .next s
  | none =>
    match fetchNext s with
    | .raised t => .next t
    | .word w t => executeWord w t

end Sys2Proof.Machine
end

