-- ==== Sys2Proof/Machine/Step.lean ====
section
/-! DEFINITION. The step of CORE: one `step_req` (00_scope R9). The HOST's own transactions are functions of
Machine/HostOps.lean (log 7). -/

namespace Sys2Proof.Machine

/-- One instruction step (R9, R32). -/
def step (s : State) : Host.Outcome State Fault Refusal := stepRequest s

/-- `s` with the instruction whose bits are `w` placed where the next step fetches it (log 8). -/
def State.withFetchWord (s : State) (nbits w : Nat) : State :=
  s.placeWord (BitVec.ofNat 16 (w % 2 ^ nbits))

end Sys2Proof.Machine
end

