-- ==== Sys2Proof/Machine/HostOps.lean ====
section
/-! DEFINITION. The HOST's transactions (00_scope R9, R10; 10_state R32): `initialize`, `step_req`, `tick_req`,
`key_req`. Each is atomic and acts between two instruction steps. Log 7. -/

namespace Sys2Proof.Machine

/-- The answer of `initialize` (R32): `init_ok` or `init_load_error`. -/
inductive InitAnswer where
  | ok
  | loadError
  deriving DecidableEq, Repr

/-- The state `initialize` builds from an image that fits (R128): the reset state of the configuration, with the
image at `PROGRAM_START`. The count of the HOST's random draws is not CORE's and goes on (log 4). -/
def State.loadImage (s : State) (image : List Byte) : State :=
  let t := State.resetOf s.cfg
  (t.setMem (t.mem.writeList s.cfg s.cfg.programStart image)).setDraws s.draws

/-- `initialize(image)` (R128 to R131), in any state, halted or not: all state is built anew, or, for an image
longer than `MEM_SIZE` - `PROGRAM_START`, `LoadError` and the state as it was. -/
def initRequest (image : List Byte) (s : State) : InitAnswer × State :=
  if s.cfg.memSize - s.cfg.programStart < image.length then (.loadError, s)
  else (.ok, s.loadImage image)

/-- `decrementTimer()` (R121): down by one if above zero, else nothing; also while halted. -/
def decrementTimer (s : State) : State := if s.dt = 0 then s else s.setDt (s.dt - 1)

/-- `keydown(k)` (R123). -/
def keydown (k : Key) (s : State) : State := s.setKey k true

/-- `keyup(k)` (R123). -/
def keyup (k : Key) (s : State) : State := s.setKey k false

/-- The input transactions of R32. -/
inductive Transaction where
  /-- `init_req`, `init_image` -/
  | initReq (image : List Byte)
  /-- `step_req` -/
  | stepReq
  /-- `tick_req` -/
  | tickReq
  /-- `key_req`, `key_index`, `key_down` -/
  | keyReq (index : Key) (down : Bool)
  deriving DecidableEq, Repr

/-- What one transaction does. -/
def transact : Transaction → State → Answer
  | .initReq image, s => .next (initRequest image s).2
  | .stepReq, s => step s
  | .tickReq, s => .next (decrementTimer s)
  | .keyReq k true, s => .next (keydown k s)
  | .keyReq k false, s => .next (keyup k s)

/-- A schedule the HOST may choose: transactions one after another, in any order and number (R9, R48). -/
def runSchedule : List Transaction → State → Answer
  | [], s => .next s
  | t :: ts, s =>
    match transact t s with
    | .next s' => runSchedule ts s'
    | .fault f => .fault f
    | .refused r => .refused r

end Sys2Proof.Machine
end

