-- ==== Sys2Proof/Machine/Ports.lean ====
section
/-! DEFINITION. The outputs of CORE (10_state R32, R33): functions of the state, without side effect. -/

namespace Sys2Proof.Machine

/-- The 3-bit code of a fault (60_exceptions R108). -/
def Fault.code : Fault → BitVec 3
  | .fetchOutOfBounds => 1
  | .dataOutOfBounds _ => 2
  | .stackUnderflow => 3
  | .stackOverflow => 4
  | .drawOutOfBounds _ _ => 5
  | .keyIndexOutOfRange _ => 6

/-- `pc_out`. -/
def State.pcOut (s : State) : Addr := s.pc

/-- `pix_out`: `DISPLAY_W` columns of `DISPLAY_H` cells. -/
def State.pixOut (s : State) : List (List Bool) :=
  (List.range s.cfg.displayW).map fun px => (List.range s.cfg.displayH).map fun py => s.pixel px py

/-- `halt_out`. -/
def State.haltOut (s : State) : Bool := s.halt.isSome

/-- `fault_code`: 0 while CORE is running (R108). -/
def State.faultCode (s : State) : BitVec 3 :=
  match s.halt with
  | none => 0
  | some r => r.fault.code

/-- `fault_pc`, when there is a fault. -/
def State.faultPc (s : State) : Option Addr := s.halt.map (·.pc)

/-- `fault_word`, when there is a fault and it has a word. -/
def State.faultWord (s : State) : Option Word := s.halt.bind (·.word)

/-- `unknown_op` and `unknown_word` of the step that starts in `s`: the word, if that step executes an unknown
one (R63). It holds no state and no step reads it. -/
def State.unknownOp (s : State) : Option Word :=
  match s.halt with
  | some _ => none
  | none =>
    match fetchNext s with
    | .raised _ => none
    | .word w _ =>
      match decode w with
      | .instr _ => none
      | .unknown _ => some w

end Sys2Proof.Machine
end

