-- ==== Sys2Proof/Safety.lean ====
section
/-! DEFINITION. What counts as a safe run, the invariant of every reachable state, and the vocabulary the
statements use for what an instruction may change. -/

namespace Sys2Proof.Machine

/-! ### Running and failed (60_exceptions R116, R120; 70_reset R141 b) -/

/-- CORE is running: the fault latch is clear. A run is safe as long as this holds. -/
abbrev State.running (s : State) : Prop := s.halt = none

/-- The run has failed: a fault is latched. Such a state is never the end of a correct program (R116). -/
abbrev State.failed (s : State) : Prop := s.halt ≠ none

/-! ### The faults of R108 -/

/-- Which instructions can raise a fault: the column "raised by" of R108. -/
def Fault.raisedBy : Fault → Instr → Bool
  | .dataOutOfBounds _, .drw _ _ _ => true
  | .dataOutOfBounds _, .ldB _ => true
  | .dataOutOfBounds _, .dump _ => true
  | .dataOutOfBounds _, .load _ => true
  | .stackUnderflow, .ret => true
  | .stackOverflow, .call _ => true
  | .drawOutOfBounds _ _, .drw _ _ _ => true
  | .keyIndexOutOfRange _, .skp _ => true
  | .keyIndexOutOfRange _, .sknp _ => true
  | _, _ => false

/-- Sprite bit (`r`, `c`) of a DRW is set: bit 7 - `c` of the byte at `I` + `r` (R97). -/
abbrev State.spriteBit (s : State) (r c : Nat) : Prop :=
  (s.readByte (s.effAddr r)).getLsbD (7 - c) = true

/-- A set sprite bit (`r`, `c`) of `DRW Vx, Vy, N` whose target is outside the pixel buffer (R99). -/
abbrev State.offending (s : State) (x y : Reg) (n : Nibble) (r c : Nat) : Prop :=
  r < n.toNat ∧ c < 8 ∧ s.spriteBit r c ∧ ¬ onScreen s.cfg ((s.reg x).toNat + c) ((s.reg y).toNat + r)

/-- A set sprite bit of `DRW Vx, Vy, N` lands on the pixel (`px`, `py`) (R97, R99). -/
abbrev State.covers (s : State) (x y : Reg) (n : Nibble) (px py : Nat) : Prop :=
  ∃ r c, r < n.toNat ∧ c < 8 ∧ s.spriteBit r c ∧
    px = (s.reg x).toNat + c ∧ py = (s.reg y).toNat + r

/-- The sprite rows of `DRW Vx, Vy, N` lie in memory; with N = 0 there is no row (R40, R99). -/
abbrev State.rowsInMemory (s : State) (n : Nibble) : Prop :=
  n.toNat = 0 ∨ s.effAddr (n.toNat - 1) < s.cfg.memSize

/-- The condition under which an instruction faults: the column "condition" of R108. -/
def faultCondition : Instr → State → Prop
  | .ret, s => s.stack.length = 0
  | .call _, s => s.cfg.stackDepth ≤ s.stack.length
  | .ldB _, s => s.cfg.memSize ≤ s.effAddr 2
  | .dump x, s => s.cfg.memSize ≤ s.effAddr x.val
  | .load x, s => s.cfg.memSize ≤ s.effAddr x.val
  | .drw x y n, s => ¬ s.rowsInMemory n ∨ ∃ r c, s.offending x y n r c
  | .skp x, s => (s.reg x).toNat > 15
  | .sknp x, s => (s.reg x).toNat > 15
  | _, _ => False

/-! ### The invariant (10_state R36) -/

/-- The latch is coherent with `pc` (R108, R112): a fetch fault left `pc` where it is, at an address with no
two bytes; any other fault names an instruction that can raise it and left `pc` two bytes on. -/
def State.latchCoherent (s : State) : Prop :=
  match s.halt with
  | none => True
  | some r =>
    match r.fault with
    | .fetchOutOfBounds => r.pc = s.pc ∧ r.word = none ∧ s.cfg.memSize ≤ r.pc.toNat + 1
    | f => s.pc = r.pc + 2 ∧ ∃ i, r.word = some (encode i) ∧ f.raisedBy i = true

/-- The invariant: a valid configuration (R8); memory in canonical form, within `MEM_SIZE`; pixels in canonical
form, within the grid; at most `STACK_DEPTH` return addresses; the timer at most 255; a coherent latch. Every
other bound of R36 is a type. -/
structure State.Inv (s : State) : Prop where
  cfg : s.cfg.Valid
  mem : s.mem.wf s.cfg
  pixels : s.pixels.wf s.cfg
  timer : s.dt ≤ 255
  stack : s.stack.length ≤ s.cfg.stackDepth
  latch : s.latchCoherent

/-! ### What an instruction may change -/

/-- The parts of the state other than the general registers; nothing writes `cfg`. -/
inductive Part where
  | cfg | i | pc | stack | dt | keys | pixels | mem | halt | draws
  deriving DecidableEq, Repr

/-- Two states agree on a part; on memory and pixels, byte by byte and cell by cell. -/
def agreeOn (s t : State) : Part → Prop
  | .cfg => t.cfg = s.cfg
  | .i => t.i = s.i
  | .pc => t.pc = s.pc
  | .stack => t.stack = s.stack
  | .dt => t.dt = s.dt
  | .keys => ∀ k, t.key k = s.key k
  | .pixels => ∀ px py, t.pixel px py = s.pixel px py
  | .mem => ∀ a, t.readByte a = s.readByte a
  | .halt => t.halt = s.halt
  | .draws => t.draws = s.draws

/-- From `s` to `t` nothing changes but the listed parts and the listed registers. -/
def UnchangedBut (parts : List Part) (written : List Reg) (s t : State) : Prop :=
  (∀ r, r ∉ written → t.reg r = s.reg r) ∧ ∀ p, p ∉ parts → agreeOn s t p

/-- The general registers an instruction may write (10_state R18, R19). -/
def writtenRegs : Instr → List Reg
  | .ldImm x _ | .rnd x _ | .ldVxDt x | .ldVxK x | .addImm x _ => [x]
  | .ldReg x _ | .or x _ | .and x _ | .xor x _ => [x]
  | .addReg x _ | .sub x _ | .subn x _ | .shr x _ | .shl x _ => [x, vf]
  | .drw _ _ _ => [vf]
  | .load x => (List.finRange 16).filter (· ≤ x)
  | .cls | .ret | .jp _ | .call _ | .seImm _ _ | .sneImm _ _ | .seReg _ _ | .sneReg _ _
  | .ldI _ | .jpV0 _ | .skp _ | .sknp _ | .ldDtVx _ | .ldStVx _ | .addI _ | .ldF _ | .ldB _
  | .dump _ => []

/-- The parts of the state other than registers and latch that an instruction may write (R20 to R28, R100). -/
def writtenParts : Instr → List Part
  | .cls | .drw _ _ _ => [.pixels]
  | .ret | .call _ => [.pc, .stack]
  | .jp _ | .jpV0 _ | .seImm _ _ | .sneImm _ _ | .seReg _ _ | .sneReg _ _ | .skp _ | .sknp _
  | .ldVxK _ => [.pc]
  | .ldI _ | .addI _ | .ldF _ | .load _ => [.i]
  | .dump _ => [.i, .mem]
  | .ldB _ => [.mem]
  | .ldDtVx _ => [.dt]
  | .rnd _ _ => [.draws]
  | .ldImm _ _ | .addImm _ _ | .ldReg _ _ | .or _ _ | .and _ _ | .xor _ _ | .addReg _ _
  | .sub _ _ | .shr _ _ | .subn _ _ | .shl _ _ | .ldVxDt _ | .ldStVx _ => []

end Sys2Proof.Machine
end

