-- ==== Sys2Proof/WellFormed.lean ====
section
/-! DEFINITION. The check the spec gives on instructions as syntax (93_implementation_defined U2, U13).
Every value of every operand field is valid (30_encoding R55, R64), and the types of Instr hold exactly those
values, so no term is ill-formed as an ENCODING. What the spec asks a checker to reject is an instruction
whose result rests on an implementation-defined point. The machine executes those instructions too, as R76
and R99 say, and no statement of this package assumes this check. Log 18. -/

namespace Sys2Proof

/-- False for the instructions a checker should reject: `ADD`, `SUB`, `SHR`, `SUBN`, `SHL` with register 15
as target (U2), and `DRW` with register 15 as a coordinate (U13). -/
def Instr.wellFormed : Instr → Bool
  | .addReg x _ => x != 15
  | .sub x _ => x != 15
  | .shr x _ => x != 15
  | .subn x _ => x != 15
  | .shl x _ => x != 15
  | .drw x y _ => x != 15 && y != 15
  | .cls | .ret | .jp _ | .call _ | .seImm _ _ | .sneImm _ _ | .seReg _ _ | .ldImm _ _
  | .addImm _ _ | .ldReg _ _ | .or _ _ | .and _ _ | .xor _ _ | .sneReg _ _ | .ldI _ | .jpV0 _
  | .rnd _ _ | .skp _ | .sknp _ | .ldVxDt _ | .ldVxK _ | .ldDtVx _ | .ldStVx _ | .addI _
  | .ldF _ | .ldB _ | .dump _ | .load _ => true

end Sys2Proof
end

