-- ==== Sys2Proof/Certificates/Slice0/Obligations.lean ====
section
/-! DEFINITION. The statements about CORE, from the numbered rules of spec/. A statement about one instruction is a
statement about `exec`, which is entered with `pc` already past the instruction's word (30_encoding R58); so
`s.pc` is the address of the instruction plus 2. `UnchangedBut parts registers s t` says that nothing else
changed. Statements hold under every configuration; those about memory contents take the canonical form of memory
(`s.mem.wf s.cfg`) as a premise, which every step keeps (StepKeepsInvariant). -/

open Sys2Proof Sys2Proof.Machine

/-! ### Reset and the HOST's transactions -/

/-- R7, R8: the configuration of the reset state is the spec's column of defaults, and it is valid. The numbers
are the spec's choices D1 to D5, D15, D18, D22 (log 5, log 6). -/
def Obligations.ResetConfigurationIsDefault : Prop :=
  State.reset.cfg = Config.default ∧ Config.default.Valid ∧
  Config.default.memSize = 4096 ∧ Config.default.programStart = 0x200 ∧
  Config.default.fontBase = 0 ∧ Config.default.displayW = 64 ∧ Config.default.displayH = 32 ∧
  Config.default.stackDepth = 16 ∧ Config.default.timerBits = 8 ∧
  Config.default.vfWritePriority = .flag

/-- R7: the configuration is constant: no instruction, no step and no transaction of the HOST changes it. -/
def Obligations.ConfigurationIsConstant : Prop :=
  (∀ (i : Instr) (s t : State), exec i s = .next t → t.cfg = s.cfg) ∧
  (∀ s t : State, step s = .next t → t.cfg = s.cfg) ∧
  ∀ (l : List Transaction) (s t : State), runSchedule l s = .next t → t.cfg = s.cfg

/-- R34 for the empty image: what the fields of the reset state hold, under every valid configuration. -/
def Obligations.ResetHoldsResetValues : Prop :=
  ∀ c : Config, c.Valid →
    (∀ r, (State.resetOf c).reg r = 0) ∧ (State.resetOf c).i = 0 ∧
    (State.resetOf c).pc.toNat = c.programStart ∧ (State.resetOf c).stack = [] ∧
    (State.resetOf c).dt = 0 ∧ (∀ k, (State.resetOf c).key k = false) ∧
    (∀ px py, onScreen c px py → (State.resetOf c).pixel px py = false) ∧
    (∀ j (h : j < c.fontTable.length),
      (State.resetOf c).readByte (c.fontBase + j) = c.fontTable[j]) ∧
    (State.resetOf c).halt = none

/-- R34, R128, R129: under every valid configuration `initialize` accepts exactly the images that fit, in any
state, and builds the state of R34, or answers LoadError and leaves the state as it was. Bytes outside font
table and image hold the free value `MEM_INIT` (log 3). -/
def Obligations.InitializeBuildsResetState : Prop :=
  ∀ (image : List Byte) (s : State), s.cfg.Valid →
    (image.length ≤ s.cfg.memSize - s.cfg.programStart →
      ∃ t, initRequest image s = (.ok, t) ∧ t.cfg = s.cfg ∧ (∀ r, t.reg r = 0) ∧ t.i = 0 ∧
        t.pc.toNat = s.cfg.programStart ∧ t.stack = [] ∧ t.dt = 0 ∧ (∀ k, t.key k = false) ∧
        (∀ px py, onScreen s.cfg px py → t.pixel px py = false) ∧ t.halt = none ∧
        (∀ j (h : j < s.cfg.fontTable.length),
          t.readByte (s.cfg.fontBase + j) = s.cfg.fontTable[j]) ∧
        (∀ j (h : j < image.length), t.readByte (s.cfg.programStart + j) = image[j]) ∧
        ∀ a, a < s.cfg.memSize →
          (a < s.cfg.fontBase ∨ s.cfg.fontBase + s.cfg.fontTable.length ≤ a) →
          (a < s.cfg.programStart ∨ s.cfg.programStart + image.length ≤ a) →
          t.readByte a = s.cfg.memInitByte a) ∧
    (s.cfg.memSize - s.cfg.programStart < image.length →
      initRequest image s = (.loadError, s))

/-- R133: after a successful `initialize` the first word fetched, and the one the first step executes, is bytes 0
and 1 of the image, from `PROGRAM_START`, with an empty stack and no fault. -/
def Obligations.FirstFetchReadsImage : Prop :=
  ∀ (b c : Byte) (rest : List Byte) (s : State), s.cfg.Valid →
    (b :: c :: rest).length ≤ s.cfg.memSize - s.cfg.programStart →
    ∃ t u, initRequest (b :: c :: rest) s = (.ok, t) ∧ t.running ∧ t.stack = [] ∧
      t.pc.toNat = s.cfg.programStart ∧ fetchNext t = .word (wordOfBytes b c) u ∧
      u.pc = t.pc + 2 ∧ UnchangedBut [.pc] [] t u ∧
      step t = executeWord (wordOfBytes b c) u

/-- R121: `decrementTimer` takes one from a timer above zero, does nothing at zero, and changes nothing
else. -/
def Obligations.DecrementTimerFloorsAtZero : Prop :=
  ∀ s : State,
    (decrementTimer s).dt = s.dt - 1 ∧ UnchangedBut [.dt] [] s (decrementTimer s)

/-- R123: `keydown` and `keyup` set one key flag and change nothing else. -/
def Obligations.KeyEventsChangeOneFlag : Prop :=
  ∀ (k : Key) (s : State),
    ((keydown k s).key k = true ∧ (∀ j, j ≠ k → (keydown k s).key j = s.key j) ∧
      UnchangedBut [.keys] [] s (keydown k s)) ∧
    ((keyup k s).key k = false ∧ (∀ j, j ≠ k → (keyup k s).key j = s.key j) ∧
      UnchangedBut [.keys] [] s (keyup k s))

/-- R116: while halted a step changes nothing and the outputs show the latch; timer and key transactions
act on the timer and the keys alone; no transaction but `initialize` leaves the halted state or changes the
recorded fault. -/
def Obligations.HaltedOnlyInitializeLeaves : Prop :=
  ∀ (s : State) (r : FaultRecord), s.halt = some r →
    step s = .next s ∧ s.haltOut = true ∧ s.faultCode = r.fault.code ∧ s.faultPc = some r.pc ∧
    s.faultWord = r.word ∧
    transact .tickReq s = .next (decrementTimer s) ∧
    (∀ k, transact (.keyReq k true) s = .next (keydown k s) ∧
      transact (.keyReq k false) s = .next (keyup k s)) ∧
    ∀ x t, transact x s = .next t → t.halt = some r ∨ ∃ image, x = .initReq image

/-! ### Decoding and encoding -/

/-- A few words written out bit by bit from the formats of R54 and the numbers of R57, one of each family
of instruction files and each format, and unknown words of R61. A sanity statement. -/
def Obligations.SampleWordsDecode : Prop :=
  decode 0b0000000011100000#16 = .instr .cls ∧
  decode 0b0000000011101110#16 = .instr .ret ∧
  decode 0b0001001000110100#16 = .instr (.jp 0x234) ∧
  decode 0b0011110001111111#16 = .instr (.seImm 12 0x7F) ∧
  decode 0b0101101010110000#16 = .instr (.seReg 10 11) ∧
  decode 0b0110101000000101#16 = .instr (.ldImm 10 5) ∧
  decode 0b1000101010110101#16 = .instr (.sub 10 11) ∧
  decode 0b1000010101100111#16 = .instr (.subn 5 6) ∧
  decode 0b1101000100100101#16 = .instr (.drw 1 2 5) ∧
  decode 0b1110001110011110#16 = .instr (.skp 3) ∧
  decode 0b1111001100110011#16 = .instr (.ldB 3) ∧
  decode 0b1111001101100101#16 = .instr (.load 3) ∧
  decode 0b0000000100100011#16 = .unknown .family0 ∧
  decode 0b0101000100100001#16 = .unknown .family5

/-- Decoding an encoded instruction gives it back, with every operand at every value. -/
def Obligations.DecodeOfEncode : Prop :=
  ∀ i : Instr, decode (encode i) = .instr i

/-- Encoding a decoded instruction gives the word back: decoding loses no bit, the ignored Y of SHR and SHL
and the ignored X of LD ST among them (R60). -/
def Obligations.EncodeOfDecode : Prop :=
  ∀ (w : Word) (i : Instr), decode w = .instr i → encode i = w

/-- R57: a word is an instruction of a row exactly when its masked bits are the row's; no two rows overlap;
there are 34 rows, and every instruction belongs to one. -/
def Obligations.DecoderMatchesOpcodeMap : Prop :=
  (∀ row ∈ opcodeTable, ∀ w : Word,
    (∃ i, decode w = .instr i ∧ i.row = row) ↔ w &&& row.mask = row.pattern) ∧
  opcodeTable.Pairwise (fun r q => ∀ w : Word, ¬(w &&& r.mask = r.pattern ∧ w &&& q.mask = q.pattern)) ∧
  opcodeTable.length = 34 ∧ ∀ i : Instr, i.row ∈ opcodeTable

/-- R61 (a) to (f): which words are unknown, class by class. (The counts of the rule are not stated.) -/
def Obligations.UnknownWordClasses : Prop :=
  ∀ w : Word,
    (decode w = .unknown .family0 ↔ fieldFamily w = 0x0 ∧ w ≠ 0x00E0 ∧ w ≠ 0x00EE) ∧
    (decode w = .unknown .family5 ↔ fieldFamily w = 0x5 ∧ fieldN w ≠ 0) ∧
    (decode w = .unknown .family8 ↔
      fieldFamily w = 0x8 ∧ (fieldN w).toNat ∈ [0x8, 0x9, 0xA, 0xB, 0xC, 0xD, 0xF]) ∧
    (decode w = .unknown .family9 ↔ fieldFamily w = 0x9 ∧ fieldN w ≠ 0) ∧
    (decode w = .unknown .familyE ↔ fieldFamily w = 0xE ∧ (fieldNN w).toNat ∉ [0x9E, 0xA1]) ∧
    (decode w = .unknown .familyF ↔ fieldFamily w = 0xF ∧
      (fieldNN w).toNat ∉ [0x07, 0x0A, 0x15, 0x18, 0x1E, 0x29, 0x33, 0x55, 0x65])

/-! ### The step -/

/-- R9, R41, R58: a running step whose two bytes at `pc` exist and decode to an instruction executes exactly
that instruction, with `pc` advanced by 2 first. -/
def Obligations.StepExecutesDecoded : Prop :=
  ∀ (s : State) (i : Instr), s.running → s.pc.toNat + 1 < s.cfg.memSize →
    decodeBytes (s.readByte s.pc.toNat) (s.readByte (s.pc.toNat + 1)) = .instr i →
    step s = exec i (s.setPc (s.pc + 2))

/-- R62, R63: an unknown word is passed over: `pc` advances by 2, nothing else changes; and `unknown_op` shows
the word for this step (R63, the spec's decision D13; log 10). -/
def Obligations.UnknownWordIsPassedOver : Prop :=
  ∀ (s : State) (w : Word) (u : UnknownWord), s.running → s.pc.toNat + 1 < s.cfg.memSize →
    w = wordOfBytes (s.readByte s.pc.toNat) (s.readByte (s.pc.toNat + 1)) →
    decode w = .unknown u →
    s.unknownOp = some w ∧
    ∃ t, step s = .next t ∧ t.pc = s.pc + 2 ∧ UnchangedBut [.pc] [] s t

/-- R41, R109: a fetch with `pc` + 1 outside memory raises FetchOutOfBounds; `pc` is not advanced and
nothing else changes (the spec's decision D23; log 15). -/
def Obligations.FetchOutsideMemoryFaults : Prop :=
  ∀ s : State, s.running → s.cfg.memSize ≤ s.pc.toNat + 1 →
    ∃ t, step s = .next t ∧ t.halt = some ⟨.fetchOutOfBounds, s.pc, none⟩ ∧
      UnchangedBut [.halt] [] s t

/-- No step stops the machine: from every state the step answers a next state (unknown words pass, faults are
taken, a halted CORE idles). -/
def Obligations.EveryStepAnswersNext : Prop :=
  (∀ s : State, ∃ t, step s = .next t) ∧ ∀ (i : Instr) (s : State), ∃ t, exec i s = .next t

/-- R112: a step that faults records the fault with the `pc` at the start of the step, and the word unless
the fetch itself faulted; it writes nothing else, but that `pc` is already advanced when the fault is one of
`execute`. -/
def Obligations.FaultsArePrecise : Prop :=
  ∀ s t : State, s.running → step s = .next t → t.failed →
    UnchangedBut [.halt, .pc] [] s t ∧
    ∃ f, (f = .fetchOutOfBounds ∧ t.halt = some ⟨f, s.pc, none⟩ ∧ t.pc = s.pc) ∨
      (f ≠ .fetchOutOfBounds ∧ t.halt = some ⟨f, s.pc, some s.wordAtPc⟩ ∧ t.pc = s.pc + 2)

/-- R108, causes: an instruction executed by a running CORE faults exactly under its condition of the
table, and only with a fault the table says it raises. (The policies are the spec's: D5, log 5;
D6, D7, D8, D10, log 15.) -/
def Obligations.FaultsExactlyOnTableConditions : Prop :=
  ∀ (i : Instr) (s t : State), s.running → exec i s = .next t →
    (t.failed ↔ faultCondition i s) ∧
    ∀ r, t.halt = some r → r.fault.raisedBy i = true

/-- R108, the column "code", and R32: `fault_code` is 0 exactly while CORE is running, else the code of the
latched fault. -/
def Obligations.FaultCodesOfTable : Prop :=
  (∀ s : State, s.faultCode = 0 ↔ s.running) ∧
  ∀ (s : State) (r : FaultRecord), s.halt = some r →
    (r.fault = .fetchOutOfBounds → s.faultCode.toNat = 1) ∧
    (∀ a, r.fault = .dataOutOfBounds a → s.faultCode.toNat = 2) ∧
    (r.fault = .stackUnderflow → s.faultCode.toNat = 3) ∧
    (r.fault = .stackOverflow → s.faultCode.toNat = 4) ∧
    (∀ px py, r.fault = .drawOutOfBounds px py → s.faultCode.toNat = 5) ∧
    ∀ k, r.fault = .keyIndexOutOfRange k → s.faultCode.toNat = 6

/-! ### Invariants and whole-machine rules -/

/-- R36: the reset state meets the invariant, under the default and under every valid configuration. -/
def Obligations.ResetMeetsInvariant : Prop :=
  State.reset.Inv ∧ ∀ c : Config, c.Valid → (State.resetOf c).Inv

/-- R36: every step keeps the invariant, from every state that meets it. -/
def Obligations.StepKeepsInvariant : Prop :=
  ∀ s t : State, s.Inv → step s = .next t → t.Inv

/-- R36: every transaction of the HOST other than a step keeps the invariant too. -/
def Obligations.HostTransactionsKeepInvariant : Prop :=
  ∀ (x : Transaction) (s t : State), x ≠ .stepReq → s.Inv → transact x s = .next t → t.Inv

/-- R18 to R28, R100: no instruction writes a register, or another part of the state, but those the spec names
for it; so each unit is changed only by its own instructions (P by CLS and DRW, S by CALL and RET, mem by LD B
and LD [I], DT by LD DT, K by none). -/
def Obligations.EachUnitHasItsWriters : Prop :=
  ∀ (i : Instr) (s t : State), exec i s = .next t →
    UnchangedBut (.halt :: writtenParts i) (writtenRegs i) s t

/-- R141 c: from an idle loop, a JP to its own address, every further step leaves the whole state unchanged. -/
def Obligations.IdleLoopIsAFixedPoint : Prop :=
  ∀ (s : State) (a : Addr12), s.running → s.pc = a.setWidth 16 → a.toNat + 1 < s.cfg.memSize →
    s.wordAtPc = 0x1000 + a.setWidth 16 → step s = .next s

/-- R51: a store is seen by the very next fetch: after a dump of at least two registers over the next
instruction, the word fetched is the stored one, the lower-numbered register the high byte (R42). -/
def Obligations.StoreIsSeenByNextFetch : Prop :=
  ∀ (s t : State) (x : Reg), s.mem.wf s.cfg → 1 ≤ x.val → s.i = s.pc → s.effAddr x.val < s.cfg.memSize →
    exec (.dump x) s = .next t →
    ∃ u, fetchNext t = .word (wordOfBytes (s.reg 0) (s.reg 1)) u

/-! ### Control flow (40) -/

/-- R67: RET pops the stack into `pc`, or raises StackUnderflow on an empty stack (the
spec's policy D6; log 15). -/
def Obligations.RetPopsIntoPc : Prop :=
  (∀ (s : State) (a : Addr) (rest : List Addr), s.stack = a :: rest →
    ∃ t, exec .ret s = .next t ∧ t.pc = a ∧ t.stack = rest ∧ UnchangedBut [.pc, .stack] [] s t) ∧
  ∀ s : State, s.stack = [] →
    ∃ t, exec .ret s = .next t ∧ t.halt = some ⟨.stackUnderflow, s.pc - 2, some 0x00EE⟩ ∧
      UnchangedBut [.halt] [] s t

/-- R68: JP sets `pc` to NNN. -/
def Obligations.JpSetsPc : Prop :=
  ∀ (nnn : Addr12) (s : State),
    ∃ t, exec (.jp nnn) s = .next t ∧ t.pc.toNat = nnn.toNat ∧ UnchangedBut [.pc] [] s t

/-- R69: CALL pushes the address after itself and jumps, or raises StackOverflow on a full stack
(the spec's policy D5; log 5). -/
def Obligations.CallPushesReturnAddress : Prop :=
  ∀ (nnn : Addr12) (s : State),
    (s.stack.length < s.cfg.stackDepth →
      ∃ t, exec (.call nnn) s = .next t ∧ t.stack = s.pc :: s.stack ∧ t.pc.toNat = nnn.toNat ∧
        UnchangedBut [.pc, .stack] [] s t) ∧
    (s.stack.length = s.cfg.stackDepth →
      ∃ t, exec (.call nnn) s = .next t ∧
        t.halt = some ⟨.stackOverflow, s.pc - 2, some (0x2000 + nnn.setWidth 16)⟩ ∧
        UnchangedBut [.halt] [] s t)

/-- R75 e: if a CALL executed at address `a` succeeds, a RET executed with the stack as the CALL left it
returns to `a` + 2 with the stack as it was before the CALL. -/
def Obligations.CallThenRetReturns : Prop :=
  ∀ (s t u : State) (nnn : Addr12), s.running → s.pc.toNat + 1 < s.cfg.memSize →
    decode s.wordAtPc = .instr (.call nnn) → step s = .next t → t.running →
    u.running → u.pc.toNat + 1 < u.cfg.memSize → decode u.wordAtPc = .instr .ret →
    u.stack = t.stack →
    ∃ v, step u = .next v ∧ v.pc = s.pc + 2 ∧ v.stack = s.stack

/-- R70, R71: SE and SNE with an immediate skip the next word, or not, and change nothing else. -/
def Obligations.ImmediateSkips : Prop :=
  ∀ (x : Reg) (nn : Byte) (s : State),
    (∃ t, exec (.seImm x nn) s = .next t ∧
      t.pc = (if s.reg x = nn then s.pc + 2 else s.pc) ∧ UnchangedBut [.pc] [] s t) ∧
    ∃ t, exec (.sneImm x nn) s = .next t ∧
      t.pc = (if s.reg x = nn then s.pc else s.pc + 2) ∧ UnchangedBut [.pc] [] s t

/-- R72, R73: SE and SNE of two registers skip the next word, or not, and change nothing else. -/
def Obligations.RegisterSkips : Prop :=
  ∀ (x y : Reg) (s : State),
    (∃ t, exec (.seReg x y) s = .next t ∧
      t.pc = (if s.reg x = s.reg y then s.pc + 2 else s.pc) ∧ UnchangedBut [.pc] [] s t) ∧
    ∃ t, exec (.sneReg x y) s = .next t ∧
      t.pc = (if s.reg x = s.reg y then s.pc else s.pc + 2) ∧ UnchangedBut [.pc] [] s t

/-- R74: JP V0 adds register 0 to NNN, without a mask to 12 bits (the spec's decision D9; log 15). -/
def Obligations.JpV0AddsRegisterZero : Prop :=
  ∀ (nnn : Addr12) (s : State),
    ∃ t, exec (.jpV0 nnn) s = .next t ∧ t.pc.toNat = nnn.toNat + (s.reg 0).toNat ∧
      UnchangedBut [.pc] [] s t

/-! ### Loads, arithmetic, logic, shifts (41) -/

/-- R77, R79: the loads of an immediate and of a register write one register and nothing else; with X = 15 they
write VF as an ordinary register. -/
def Obligations.PlainLoadsWriteOneRegister : Prop :=
  ∀ (x y : Reg) (nn : Byte) (s : State),
    (∃ t, exec (.ldImm x nn) s = .next t ∧ t.reg x = nn ∧ UnchangedBut [] [x] s t) ∧
    ∃ t, exec (.ldReg x y) s = .next t ∧ t.reg x = s.reg y ∧ UnchangedBut [] [x] s t

/-- R78: ADD with an immediate wraps modulo 256 and writes no flag. -/
def Obligations.AddImmediateWrapsWithoutFlag : Prop :=
  ∀ (x : Reg) (nn : Byte) (s : State),
    ∃ t, exec (.addImm x nn) s = .next t ∧
      (t.reg x).toNat = ((s.reg x).toNat + nn.toNat) % 256 ∧ UnchangedBut [] [x] s t

/-- R80, R81, R82: OR, AND and XOR, bit by bit, and no flag. -/
def Obligations.LogicIsBitwiseWithoutFlag : Prop :=
  ∀ (x y : Reg) (s : State),
    (∃ t, exec (.or x y) s = .next t ∧
      (∀ k, (t.reg x).getLsbD k = ((s.reg x).getLsbD k || (s.reg y).getLsbD k)) ∧
      UnchangedBut [] [x] s t) ∧
    (∃ t, exec (.and x y) s = .next t ∧
      (∀ k, (t.reg x).getLsbD k = ((s.reg x).getLsbD k && (s.reg y).getLsbD k)) ∧
      UnchangedBut [] [x] s t) ∧
    ∃ t, exec (.xor x y) s = .next t ∧
      (∀ k, (t.reg x).getLsbD k = ((s.reg x).getLsbD k ^^ (s.reg y).getLsbD k)) ∧
      UnchangedBut [] [x] s t

/-- R83, R76: ADD of two registers: VF is the carry and `x[X]` the sum modulo 256; for X = 15 the flag or the
result survives, as `VF_WRITE_PRIORITY` says (a parameter of the spec, its decision D15; log 6). -/
def Obligations.AddRegistersSumAndCarry : Prop :=
  ∀ (x y : Reg) (s : State),
    ∃ t, exec (.addReg x y) s = .next t ∧
      (x ≠ vf ∨ s.cfg.vfWritePriority = .flag →
        (t.reg vf).toNat = (if (s.reg x).toNat + (s.reg y).toNat > 255 then 1 else 0)) ∧
      (x ≠ vf ∨ s.cfg.vfWritePriority = .result →
        (t.reg x).toNat = ((s.reg x).toNat + (s.reg y).toNat) % 256) ∧
      UnchangedBut [] [x, vf] s t

/-- R84, R76: SUB: VF is 0 exactly when `x[Y]` > `x[X]`, and `x[X]` is `x[X]` - `x[Y]` modulo 256; for X = 15 one
of the two survives, as `VF_WRITE_PRIORITY` says (D15; log 6). -/
def Obligations.SubDifferenceAndNotBorrow : Prop :=
  ∀ (x y : Reg) (s : State),
    ∃ t, exec (.sub x y) s = .next t ∧
      (x ≠ vf ∨ s.cfg.vfWritePriority = .flag →
        (t.reg vf).toNat = (if (s.reg y).toNat > (s.reg x).toNat then 0 else 1)) ∧
      (x ≠ vf ∨ s.cfg.vfWritePriority = .result →
        ((t.reg x).toNat : Int) = (((s.reg x).toNat : Int) - (s.reg y).toNat) % 256) ∧
      UnchangedBut [] [x, vf] s t

/-- R86, R76: SUBN: VF is 0 exactly when `x[Y]` < `x[X]`, and `x[X]` is `x[Y]` - `x[X]` modulo 256; for X = 15 one
of the two survives, as `VF_WRITE_PRIORITY` says (D15; log 6). -/
def Obligations.SubnDifferenceAndNotBorrow : Prop :=
  ∀ (x y : Reg) (s : State),
    ∃ t, exec (.subn x y) s = .next t ∧
      (x ≠ vf ∨ s.cfg.vfWritePriority = .flag →
        (t.reg vf).toNat = (if (s.reg y).toNat < (s.reg x).toNat then 0 else 1)) ∧
      (x ≠ vf ∨ s.cfg.vfWritePriority = .result →
        ((t.reg x).toNat : Int) = (((s.reg y).toNat : Int) - (s.reg x).toNat) % 256) ∧
      UnchangedBut [] [x, vf] s t

/-- R85, R76: SHR, with every Y: VF is the old bit 0 and `x[X]` is `x[X]` div 2; for X = 15 one of the two
survives, as `VF_WRITE_PRIORITY` says (D15; log 6). That Y is ignored is the spec's decision D14 (log 15). -/
def Obligations.ShrHalvesAndDropsBitZero : Prop :=
  ∀ (x y : Reg) (s : State),
    ∃ t, exec (.shr x y) s = .next t ∧
      (x ≠ vf ∨ s.cfg.vfWritePriority = .flag → (t.reg vf).toNat = (s.reg x).toNat % 2) ∧
      (x ≠ vf ∨ s.cfg.vfWritePriority = .result → (t.reg x).toNat = (s.reg x).toNat / 2) ∧
      UnchangedBut [] [x, vf] s t

/-- R87, R76: SHL, with every Y: VF is the old bit 7 and `x[X]` is twice `x[X]` modulo 256; for X = 15 one of the
two survives, as `VF_WRITE_PRIORITY` says (D15; log 6). That Y is ignored is the spec's decision D14 (log 15). -/
def Obligations.ShlDoublesAndDropsBitSeven : Prop :=
  ∀ (x y : Reg) (s : State),
    ∃ t, exec (.shl x y) s = .next t ∧
      (x ≠ vf ∨ s.cfg.vfWritePriority = .flag → (t.reg vf).toNat = (s.reg x).toNat / 128) ∧
      (x ≠ vf ∨ s.cfg.vfWritePriority = .result → (t.reg x).toNat = (s.reg x).toNat * 2 % 256) ∧
      UnchangedBut [] [x, vf] s t

/-- R76: for a target other than register 15 the two write priorities give the same state; for register 15
the flag survives under `flag` and the result under `result`. Which one runs is the configuration's choice (the
spec's default is `flag`: D15; log 6). -/
def Obligations.WritePriorityMattersOnlyForVf : Prop :=
  ∀ (r c : Byte) (s : State),
    (∀ x, x ≠ vf → writeResultAndFlag .flag x r c s = writeResultAndFlag .result x r c s) ∧
    (writeResultAndFlag .flag vf r c s).reg vf = c ∧
    (writeResultAndFlag .result vf r c s).reg vf = r ∧
    ∀ x, nextWithFlag x r c s = .next (writeResultAndFlag s.cfg.vfWritePriority x r c s)

/-- R89: RND writes a byte AND NN, whatever byte is drawn: every bit that is 0 in NN is 0 in the result.
That the byte is the free value `Config.rndIn` of a counter of draws is the model's own form (log 4); nothing
here rests on its value. -/
def Obligations.RndIsMasked : Prop :=
  ∀ (x : Reg) (nn : Byte) (s : State),
    ∃ t, exec (.rnd x nn) s = .next t ∧ t.reg x = Config.rndIn s.draws &&& nn ∧
      (∀ k, nn.getLsbD k = false → (t.reg x).getLsbD k = false) ∧
      t.draws = s.draws + 1 ∧ UnchangedBut [.draws] [x] s t

/-! ### Address register and memory (42) -/

/-- R90, R91, R92: LD I, ADD I and LD F write `I` and nothing else: NNN; the sum modulo 65536, without a mask
to 12 bits; `FONT_BASE` + 5 times the whole register, modulo 65536 (the spec's decisions D9, D32; log 15). -/
def Obligations.AddressRegisterWrites : Prop :=
  ∀ (nnn : Addr12) (x : Reg) (s : State),
    (∃ t, exec (.ldI nnn) s = .next t ∧ t.i.toNat = nnn.toNat ∧ UnchangedBut [.i] [] s t) ∧
    (∃ t, exec (.addI x) s = .next t ∧
      t.i.toNat = (s.i.toNat + (s.reg x).toNat) % 65536 ∧ UnchangedBut [.i] [] s t) ∧
    ∃ t, exec (.ldF x) s = .next t ∧
      t.i.toNat = (s.cfg.fontBase + 5 * (s.reg x).toNat) % 65536 ∧
      UnchangedBut [.i] [] s t

/-- R93: LD B stores the three digits at `I`, `I` + 1, `I` + 2 when all three exist and changes no other byte
and nothing else, `I` included; else it raises DataOutOfBounds and writes nothing (the spec's policy D8;
log 15). -/
def Obligations.LdBStoresDecimalDigits : Prop :=
  ∀ (x : Reg) (s : State),
    (s.mem.wf s.cfg → s.effAddr 2 < s.cfg.memSize →
      ∃ t, exec (.ldB x) s = .next t ∧
        (t.readByte (s.effAddr 0)).toNat = (s.reg x).toNat / 100 ∧
        (t.readByte (s.effAddr 1)).toNat = (s.reg x).toNat / 10 % 10 ∧
        (t.readByte (s.effAddr 2)).toNat = (s.reg x).toNat % 10 ∧
        (∀ a, a < s.effAddr 0 ∨ s.effAddr 2 < a → t.readByte a = s.readByte a) ∧
        UnchangedBut [.mem] [] s t) ∧
    (s.cfg.memSize ≤ s.effAddr 2 →
      ∃ t, exec (.ldB x) s = .next t ∧
        t.halt = some ⟨.dataOutOfBounds (s.effAddr 2), s.pc - 2, some (encode (.ldB x))⟩ ∧
        UnchangedBut [.halt] [] s t)

/-- R94: LD [I],Vx stores registers 0 to X at `I` to `I` + X when all addresses exist, moves `I` past them and
changes no other byte and nothing else; else it raises DataOutOfBounds and writes nothing (D8; log 15). -/
def Obligations.DumpStoresRegisters : Prop :=
  ∀ (x : Reg) (s : State),
    (s.mem.wf s.cfg → s.effAddr x.val < s.cfg.memSize →
      ∃ t, exec (.dump x) s = .next t ∧
        (∀ k, k ≤ x → t.readByte (s.effAddr k.val) = s.reg k) ∧
        (∀ a, a < s.effAddr 0 ∨ s.effAddr x.val < a → t.readByte a = s.readByte a) ∧
        t.i.toNat = (s.i.toNat + x.val + 1) % 65536 ∧
        UnchangedBut [.mem, .i] [] s t) ∧
    (s.cfg.memSize ≤ s.effAddr x.val →
      ∃ t, exec (.dump x) s = .next t ∧
        t.halt = some ⟨.dataOutOfBounds (s.effAddr x.val), s.pc - 2, some (encode (.dump x))⟩ ∧
        UnchangedBut [.halt] [] s t)

/-- R95: LD Vx,[I] loads registers 0 to X from `I` to `I` + X when all addresses exist, moves `I` past them
and changes nothing else; else it raises DataOutOfBounds and changes no register (D8; log 15). -/
def Obligations.LoadFillsRegisters : Prop :=
  ∀ (x : Reg) (s : State),
    (s.effAddr x.val < s.cfg.memSize →
      ∃ t, exec (.load x) s = .next t ∧
        (∀ k, k ≤ x → t.reg k = s.readByte (s.effAddr k.val)) ∧
        (∀ k, x < k → t.reg k = s.reg k) ∧
        t.i.toNat = (s.i.toNat + x.val + 1) % 65536 ∧
        UnchangedBut [.i] ((List.finRange 16).filter (· ≤ x)) s t) ∧
    (s.cfg.memSize ≤ s.effAddr x.val →
      ∃ t, exec (.load x) s = .next t ∧
        t.halt = some ⟨.dataOutOfBounds (s.effAddr x.val), s.pc - 2, some (encode (.load x))⟩ ∧
        UnchangedBut [.halt] [] s t)

/-- R96 b: a dump, then `I` restored, then the load of the same range leaves the registers as they were
before the dump, whatever registers 0 to X hold in between. -/
def Obligations.DumpThenLoadRestores : Prop :=
  ∀ (x : Reg) (s t u : State), s.mem.wf s.cfg → s.effAddr x.val < s.cfg.memSize →
    exec (.dump x) s = .next t → u.cfg = t.cfg → u.mem = t.mem → u.i = s.i →
    ∃ v, exec (.load x) u = .next v ∧ ∀ k, k ≤ x → v.reg k = s.reg k

/-! ### Display (43) -/

/-- R98: CLS clears every pixel and changes nothing else. -/
def Obligations.ClsClearsEveryPixel : Prop :=
  ∀ s : State,
    ∃ t, exec .cls s = .next t ∧ (∀ px py, onScreen s.cfg px py → t.pixel px py = false) ∧
      UnchangedBut [.pixels] [] s t

/-- R99, R100: a DRW whose rows lie in memory and whose set bits all land on the screen toggles exactly the
pixels under a set sprite bit, sets VF to 1 if one of them was set and to 0 otherwise, and changes nothing
else. With N = 0 nothing is drawn and VF is 0. (VF = 0 without a collision is the spec's reading D16; log
15.) -/
def Obligations.DrwTogglesSpritePixels : Prop :=
  ∀ (x y : Reg) (n : Nibble) (s : State),
    s.rowsInMemory n → (∀ r c, ¬ s.offending x y n r c) →
    ∃ t, exec (.drw x y n) s = .next t ∧
      (∀ px py, s.covers x y n px py → t.pixel px py = !s.pixel px py) ∧
      (∀ px py, ¬ s.covers x y n px py → t.pixel px py = s.pixel px py) ∧
      ((∃ px py, s.covers x y n px py ∧ s.pixel px py = true) → t.reg vf = 1) ∧
      ((∀ px py, s.covers x y n px py → s.pixel px py = false) → t.reg vf = 0) ∧
      UnchangedBut [.pixels] [vf] s t

/-- R99, R110, R113, R115: a DRW with a row outside memory raises DataOutOfBounds; with its rows in memory and
a set bit outside the screen it raises DrawOutOfBounds for the first such bit in row-major order. Nothing is
drawn and VF is as it was. (The spec's policies D7, D8, D23; log 15.) -/
def Obligations.DrwFaultsBeforeDrawing : Prop :=
  ∀ (x y : Reg) (n : Nibble) (s : State),
    (¬ s.rowsInMemory n →
      ∃ t, exec (.drw x y n) s = .next t ∧
        t.halt = some ⟨.dataOutOfBounds (s.effAddr (n.toNat - 1)), s.pc - 2,
          some (encode (.drw x y n))⟩ ∧
        UnchangedBut [.halt] [] s t) ∧
    (s.rowsInMemory n → ∀ r c, s.offending x y n r c →
      (∀ r' c', s.offending x y n r' c' → r < r' ∨ r = r' ∧ c ≤ c') →
      ∃ t, exec (.drw x y n) s = .next t ∧
        t.halt = some ⟨.drawOutOfBounds ((s.reg x).toNat + c) ((s.reg y).toNat + r), s.pc - 2,
          some (encode (.drw x y n))⟩ ∧
        UnchangedBut [.halt] [] s t)

/-- From R99 and R100: the same sprite drawn twice at the same place restores the buffer, and the second call
reports VF = 1 exactly when the first one set a pixel. (R99's remark that it reports 1 "if the sprite has any
set bit" holds where the first call met no set pixel; its pseudocode is followed. Log 20.) -/
def Obligations.DrawingTwiceErases : Prop :=
  ∀ (x y : Reg) (n : Nibble) (s t u v : State), s.running → exec (.drw x y n) s = .next t →
    t.running → u.running → u.cfg = t.cfg → u.pixels = t.pixels → u.mem = s.mem → u.i = s.i →
    u.reg x = s.reg x → u.reg y = s.reg y → exec (.drw x y n) u = .next v →
    v.running ∧ (∀ px py, v.pixel px py = s.pixel px py) ∧
    (v.reg vf = 1 ↔ ∃ px py, s.covers x y n px py ∧ s.pixel px py = false)

/-! ### Keys and timer (44) -/

/-- R101, R102, R114: SKP and SKNP skip on the key the register names, or raise KeyIndexOutOfRange when it
names none (the spec's policy D10; log 15), and change nothing else. -/
def Obligations.KeySkips : Prop :=
  ∀ (x : Reg) (s : State),
    (∀ k : Key, (s.reg x).toNat = k.val →
      (∃ t, exec (.skp x) s = .next t ∧
        t.pc = (if s.key k = true then s.pc + 2 else s.pc) ∧ UnchangedBut [.pc] [] s t) ∧
      ∃ t, exec (.sknp x) s = .next t ∧
        t.pc = (if s.key k = true then s.pc else s.pc + 2) ∧ UnchangedBut [.pc] [] s t) ∧
    ((s.reg x).toNat > 15 →
      (∃ t, exec (.skp x) s = .next t ∧
        t.halt = some ⟨.keyIndexOutOfRange (s.reg x), s.pc - 2, some (encode (.skp x))⟩ ∧
        UnchangedBut [.halt] [] s t) ∧
      ∃ t, exec (.sknp x) s = .next t ∧
        t.halt = some ⟨.keyIndexOutOfRange (s.reg x), s.pc - 2, some (encode (.sknp x))⟩ ∧
        UnchangedBut [.halt] [] s t)

/-- R104: LD Vx,K stores the highest pressed key; with none pressed it rewinds `pc` by 2 and leaves `x[X]`. That
it completes on any held key is the spec's decision D31 (log 15). -/
def Obligations.KeyWaitTakesHighestKey : Prop :=
  ∀ (x : Reg) (s : State),
    (∀ k : Key, s.key k = true → (∀ j, k < j → s.key j = false) →
      ∃ t, exec (.ldVxK x) s = .next t ∧ (t.reg x).toNat = k.val ∧ UnchangedBut [] [x] s t) ∧
    ((∀ j, s.key j = false) →
      ∃ t, exec (.ldVxK x) s = .next t ∧ t.pc = s.pc - 2 ∧ UnchangedBut [.pc] [] s t)

/-- R104, R136: with no key pressed a whole step at LD Vx,K changes nothing at all; the wait is the same
instruction executed again. -/
def Obligations.KeyWaitWithoutKeyIsStill : Prop :=
  ∀ (s : State) (x : Reg), s.running → s.pc.toNat + 1 < s.cfg.memSize →
    decode s.wordAtPc = .instr (.ldVxK x) → (∀ j, s.key j = false) → step s = .next s

/-- R103: LD Vx,DT writes the timer's value into the register and nothing else. That the timer holds at most 255
is an inference of the spec (R36), kept by every step (StepKeepsInvariant). -/
def Obligations.LdVxDtReadsTimer : Prop :=
  ∀ (x : Reg) (s : State),
    ∃ t, exec (.ldVxDt x) s = .next t ∧ (s.dt ≤ 255 → (t.reg x).toNat = s.dt) ∧
      UnchangedBut [] [x] s t

/-- R105: LD DT,Vx writes the register's value into the timer and nothing else. That a timer is at least 8 bits
wide is inferred from the direct transfers of R24 (`Config.Valid`, log 5). -/
def Obligations.LdDtWritesTimer : Prop :=
  ∀ (x : Reg) (s : State),
    ∃ t, exec (.ldDtVx x) s = .next t ∧
      (8 ≤ s.cfg.timerBits → t.dt = (s.reg x).toNat) ∧ UnchangedBut [.dt] [] s t

/-- R106: a step at LD ST,Vx moves `pc` past it, changes nothing else, and does not raise `unknown_op`. -/
def Obligations.LdStIsInert : Prop :=
  (∀ (x : Reg) (s : State), exec (.ldStVx x) s = .next s) ∧
  ∀ (s : State) (x : Reg), s.running → s.pc.toNat + 1 < s.cfg.memSize →
    decode s.wordAtPc = .instr (.ldStVx x) →
    s.unknownOp = none ∧ ∃ t, step s = .next t ∧ t.pc = s.pc + 2 ∧ UnchangedBut [.pc] [] s t
end

