-- ==== Sys2Proof/Laws/State.lean ====
section
/-! SUPPORT. The fields of a state after each update, and what the accessors read after an update of another
field: true by definition, so that no proof unfolds a record update. -/

namespace Sys2Proof.Machine

variable (s : State)

/-! ### resetOf -/

section
variable (c : Config)

@[simp] theorem State.resetOf_cfg : (State.resetOf c).cfg = c := rfl
@[simp] theorem State.resetOf_i : (State.resetOf c).i = 0 := rfl
@[simp] theorem State.resetOf_pc : (State.resetOf c).pc = BitVec.ofNat 16 c.programStart := rfl
@[simp] theorem State.resetOf_stack : (State.resetOf c).stack = [] := rfl
@[simp] theorem State.resetOf_dt : (State.resetOf c).dt = 0 := rfl
@[simp] theorem State.resetOf_pixels : (State.resetOf c).pixels = [] := rfl
@[simp] theorem State.resetOf_mem : (State.resetOf c).mem = [] := rfl
@[simp] theorem State.resetOf_halt : (State.resetOf c).halt = none := rfl
@[simp] theorem State.resetOf_draws : (State.resetOf c).draws = 0 := rfl
@[simp] theorem State.resetOf_reg (r : Reg) : (State.resetOf c).reg r = 0 := by
  simp [State.reg, State.resetOf, Vector.get_eq_getElem]
@[simp] theorem State.resetOf_key (k : Key) : (State.resetOf c).key k = false := by
  simp [State.key, State.resetOf, Vector.get_eq_getElem]
end

/-! ### setRegs -/

@[simp] theorem State.setRegs_cfg (v : Vector Byte 16) :
    (s.setRegs v).cfg = s.cfg := rfl
@[simp] theorem State.setRegs_regs (v : Vector Byte 16) :
    (s.setRegs v).regs = v := rfl
@[simp] theorem State.setRegs_i (v : Vector Byte 16) :
    (s.setRegs v).i = s.i := rfl
@[simp] theorem State.setRegs_pc (v : Vector Byte 16) :
    (s.setRegs v).pc = s.pc := rfl
@[simp] theorem State.setRegs_stack (v : Vector Byte 16) :
    (s.setRegs v).stack = s.stack := rfl
@[simp] theorem State.setRegs_dt (v : Vector Byte 16) :
    (s.setRegs v).dt = s.dt := rfl
@[simp] theorem State.setRegs_keys (v : Vector Byte 16) :
    (s.setRegs v).keys = s.keys := rfl
@[simp] theorem State.setRegs_pixels (v : Vector Byte 16) :
    (s.setRegs v).pixels = s.pixels := rfl
@[simp] theorem State.setRegs_mem (v : Vector Byte 16) :
    (s.setRegs v).mem = s.mem := rfl
@[simp] theorem State.setRegs_halt (v : Vector Byte 16) :
    (s.setRegs v).halt = s.halt := rfl
@[simp] theorem State.setRegs_draws (v : Vector Byte 16) :
    (s.setRegs v).draws = s.draws := rfl
@[simp] theorem State.setRegs_readByte (v : Vector Byte 16) (addr : Nat) :
    (s.setRegs v).readByte addr = s.readByte addr := rfl
@[simp] theorem State.setRegs_pixel (v : Vector Byte 16) (px py : Nat) :
    (s.setRegs v).pixel px py = s.pixel px py := rfl
@[simp] theorem State.setRegs_key (v : Vector Byte 16) (j : Key) :
    (s.setRegs v).key j = s.key j := rfl
@[simp] theorem State.setRegs_effAddr (v : Vector Byte 16) (d : Nat) :
    (s.setRegs v).effAddr d = s.effAddr d := rfl
@[simp] theorem State.setRegs_rnd (v : Vector Byte 16) :
    (s.setRegs v).rnd = s.rnd := rfl

/-! ### setI -/

@[simp] theorem State.setI_cfg (a : Addr) :
    (s.setI a).cfg = s.cfg := rfl
@[simp] theorem State.setI_regs (a : Addr) :
    (s.setI a).regs = s.regs := rfl
@[simp] theorem State.setI_i (a : Addr) :
    (s.setI a).i = a := rfl
@[simp] theorem State.setI_pc (a : Addr) :
    (s.setI a).pc = s.pc := rfl
@[simp] theorem State.setI_stack (a : Addr) :
    (s.setI a).stack = s.stack := rfl
@[simp] theorem State.setI_dt (a : Addr) :
    (s.setI a).dt = s.dt := rfl
@[simp] theorem State.setI_keys (a : Addr) :
    (s.setI a).keys = s.keys := rfl
@[simp] theorem State.setI_pixels (a : Addr) :
    (s.setI a).pixels = s.pixels := rfl
@[simp] theorem State.setI_mem (a : Addr) :
    (s.setI a).mem = s.mem := rfl
@[simp] theorem State.setI_halt (a : Addr) :
    (s.setI a).halt = s.halt := rfl
@[simp] theorem State.setI_draws (a : Addr) :
    (s.setI a).draws = s.draws := rfl
@[simp] theorem State.setI_reg (a : Addr) (q : Reg) :
    (s.setI a).reg q = s.reg q := rfl
@[simp] theorem State.setI_readByte (a : Addr) (addr : Nat) :
    (s.setI a).readByte addr = s.readByte addr := rfl
@[simp] theorem State.setI_pixel (a : Addr) (px py : Nat) :
    (s.setI a).pixel px py = s.pixel px py := rfl
@[simp] theorem State.setI_key (a : Addr) (j : Key) :
    (s.setI a).key j = s.key j := rfl
@[simp] theorem State.setI_rnd (a : Addr) :
    (s.setI a).rnd = s.rnd := rfl

/-! ### setPc -/

@[simp] theorem State.setPc_cfg (a : Addr) :
    (s.setPc a).cfg = s.cfg := rfl
@[simp] theorem State.setPc_regs (a : Addr) :
    (s.setPc a).regs = s.regs := rfl
@[simp] theorem State.setPc_i (a : Addr) :
    (s.setPc a).i = s.i := rfl
@[simp] theorem State.setPc_pc (a : Addr) :
    (s.setPc a).pc = a := rfl
@[simp] theorem State.setPc_stack (a : Addr) :
    (s.setPc a).stack = s.stack := rfl
@[simp] theorem State.setPc_dt (a : Addr) :
    (s.setPc a).dt = s.dt := rfl
@[simp] theorem State.setPc_keys (a : Addr) :
    (s.setPc a).keys = s.keys := rfl
@[simp] theorem State.setPc_pixels (a : Addr) :
    (s.setPc a).pixels = s.pixels := rfl
@[simp] theorem State.setPc_mem (a : Addr) :
    (s.setPc a).mem = s.mem := rfl
@[simp] theorem State.setPc_halt (a : Addr) :
    (s.setPc a).halt = s.halt := rfl
@[simp] theorem State.setPc_draws (a : Addr) :
    (s.setPc a).draws = s.draws := rfl
@[simp] theorem State.setPc_reg (a : Addr) (q : Reg) :
    (s.setPc a).reg q = s.reg q := rfl
@[simp] theorem State.setPc_readByte (a : Addr) (addr : Nat) :
    (s.setPc a).readByte addr = s.readByte addr := rfl
@[simp] theorem State.setPc_pixel (a : Addr) (px py : Nat) :
    (s.setPc a).pixel px py = s.pixel px py := rfl
@[simp] theorem State.setPc_key (a : Addr) (j : Key) :
    (s.setPc a).key j = s.key j := rfl
@[simp] theorem State.setPc_effAddr (a : Addr) (d : Nat) :
    (s.setPc a).effAddr d = s.effAddr d := rfl
@[simp] theorem State.setPc_rnd (a : Addr) :
    (s.setPc a).rnd = s.rnd := rfl

/-! ### setStack -/

@[simp] theorem State.setStack_cfg (l : List Addr) :
    (s.setStack l).cfg = s.cfg := rfl
@[simp] theorem State.setStack_regs (l : List Addr) :
    (s.setStack l).regs = s.regs := rfl
@[simp] theorem State.setStack_i (l : List Addr) :
    (s.setStack l).i = s.i := rfl
@[simp] theorem State.setStack_pc (l : List Addr) :
    (s.setStack l).pc = s.pc := rfl
@[simp] theorem State.setStack_stack (l : List Addr) :
    (s.setStack l).stack = l := rfl
@[simp] theorem State.setStack_dt (l : List Addr) :
    (s.setStack l).dt = s.dt := rfl
@[simp] theorem State.setStack_keys (l : List Addr) :
    (s.setStack l).keys = s.keys := rfl
@[simp] theorem State.setStack_pixels (l : List Addr) :
    (s.setStack l).pixels = s.pixels := rfl
@[simp] theorem State.setStack_mem (l : List Addr) :
    (s.setStack l).mem = s.mem := rfl
@[simp] theorem State.setStack_halt (l : List Addr) :
    (s.setStack l).halt = s.halt := rfl
@[simp] theorem State.setStack_draws (l : List Addr) :
    (s.setStack l).draws = s.draws := rfl
@[simp] theorem State.setStack_reg (l : List Addr) (q : Reg) :
    (s.setStack l).reg q = s.reg q := rfl
@[simp] theorem State.setStack_readByte (l : List Addr) (addr : Nat) :
    (s.setStack l).readByte addr = s.readByte addr := rfl
@[simp] theorem State.setStack_pixel (l : List Addr) (px py : Nat) :
    (s.setStack l).pixel px py = s.pixel px py := rfl
@[simp] theorem State.setStack_key (l : List Addr) (j : Key) :
    (s.setStack l).key j = s.key j := rfl
@[simp] theorem State.setStack_effAddr (l : List Addr) (d : Nat) :
    (s.setStack l).effAddr d = s.effAddr d := rfl
@[simp] theorem State.setStack_rnd (l : List Addr) :
    (s.setStack l).rnd = s.rnd := rfl

/-! ### setDt -/

@[simp] theorem State.setDt_cfg (v : Nat) :
    (s.setDt v).cfg = s.cfg := rfl
@[simp] theorem State.setDt_regs (v : Nat) :
    (s.setDt v).regs = s.regs := rfl
@[simp] theorem State.setDt_i (v : Nat) :
    (s.setDt v).i = s.i := rfl
@[simp] theorem State.setDt_pc (v : Nat) :
    (s.setDt v).pc = s.pc := rfl
@[simp] theorem State.setDt_stack (v : Nat) :
    (s.setDt v).stack = s.stack := rfl
@[simp] theorem State.setDt_dt (v : Nat) :
    (s.setDt v).dt = v := rfl
@[simp] theorem State.setDt_keys (v : Nat) :
    (s.setDt v).keys = s.keys := rfl
@[simp] theorem State.setDt_pixels (v : Nat) :
    (s.setDt v).pixels = s.pixels := rfl
@[simp] theorem State.setDt_mem (v : Nat) :
    (s.setDt v).mem = s.mem := rfl
@[simp] theorem State.setDt_halt (v : Nat) :
    (s.setDt v).halt = s.halt := rfl
@[simp] theorem State.setDt_draws (v : Nat) :
    (s.setDt v).draws = s.draws := rfl
@[simp] theorem State.setDt_reg (v : Nat) (q : Reg) :
    (s.setDt v).reg q = s.reg q := rfl
@[simp] theorem State.setDt_readByte (v : Nat) (addr : Nat) :
    (s.setDt v).readByte addr = s.readByte addr := rfl
@[simp] theorem State.setDt_pixel (v : Nat) (px py : Nat) :
    (s.setDt v).pixel px py = s.pixel px py := rfl
@[simp] theorem State.setDt_key (v : Nat) (j : Key) :
    (s.setDt v).key j = s.key j := rfl
@[simp] theorem State.setDt_effAddr (v : Nat) (d : Nat) :
    (s.setDt v).effAddr d = s.effAddr d := rfl
@[simp] theorem State.setDt_rnd (v : Nat) :
    (s.setDt v).rnd = s.rnd := rfl

/-! ### setKeys -/

@[simp] theorem State.setKeys_cfg (k : Vector Bool 16) :
    (s.setKeys k).cfg = s.cfg := rfl
@[simp] theorem State.setKeys_regs (k : Vector Bool 16) :
    (s.setKeys k).regs = s.regs := rfl
@[simp] theorem State.setKeys_i (k : Vector Bool 16) :
    (s.setKeys k).i = s.i := rfl
@[simp] theorem State.setKeys_pc (k : Vector Bool 16) :
    (s.setKeys k).pc = s.pc := rfl
@[simp] theorem State.setKeys_stack (k : Vector Bool 16) :
    (s.setKeys k).stack = s.stack := rfl
@[simp] theorem State.setKeys_dt (k : Vector Bool 16) :
    (s.setKeys k).dt = s.dt := rfl
@[simp] theorem State.setKeys_keys (k : Vector Bool 16) :
    (s.setKeys k).keys = k := rfl
@[simp] theorem State.setKeys_pixels (k : Vector Bool 16) :
    (s.setKeys k).pixels = s.pixels := rfl
@[simp] theorem State.setKeys_mem (k : Vector Bool 16) :
    (s.setKeys k).mem = s.mem := rfl
@[simp] theorem State.setKeys_halt (k : Vector Bool 16) :
    (s.setKeys k).halt = s.halt := rfl
@[simp] theorem State.setKeys_draws (k : Vector Bool 16) :
    (s.setKeys k).draws = s.draws := rfl
@[simp] theorem State.setKeys_reg (k : Vector Bool 16) (q : Reg) :
    (s.setKeys k).reg q = s.reg q := rfl
@[simp] theorem State.setKeys_readByte (k : Vector Bool 16) (addr : Nat) :
    (s.setKeys k).readByte addr = s.readByte addr := rfl
@[simp] theorem State.setKeys_pixel (k : Vector Bool 16) (px py : Nat) :
    (s.setKeys k).pixel px py = s.pixel px py := rfl
@[simp] theorem State.setKeys_effAddr (k : Vector Bool 16) (d : Nat) :
    (s.setKeys k).effAddr d = s.effAddr d := rfl
@[simp] theorem State.setKeys_rnd (k : Vector Bool 16) :
    (s.setKeys k).rnd = s.rnd := rfl

/-! ### setPixels -/

@[simp] theorem State.setPixels_cfg (p : Pixels) :
    (s.setPixels p).cfg = s.cfg := rfl
@[simp] theorem State.setPixels_regs (p : Pixels) :
    (s.setPixels p).regs = s.regs := rfl
@[simp] theorem State.setPixels_i (p : Pixels) :
    (s.setPixels p).i = s.i := rfl
@[simp] theorem State.setPixels_pc (p : Pixels) :
    (s.setPixels p).pc = s.pc := rfl
@[simp] theorem State.setPixels_stack (p : Pixels) :
    (s.setPixels p).stack = s.stack := rfl
@[simp] theorem State.setPixels_dt (p : Pixels) :
    (s.setPixels p).dt = s.dt := rfl
@[simp] theorem State.setPixels_keys (p : Pixels) :
    (s.setPixels p).keys = s.keys := rfl
@[simp] theorem State.setPixels_pixels (p : Pixels) :
    (s.setPixels p).pixels = p := rfl
@[simp] theorem State.setPixels_mem (p : Pixels) :
    (s.setPixels p).mem = s.mem := rfl
@[simp] theorem State.setPixels_halt (p : Pixels) :
    (s.setPixels p).halt = s.halt := rfl
@[simp] theorem State.setPixels_draws (p : Pixels) :
    (s.setPixels p).draws = s.draws := rfl
@[simp] theorem State.setPixels_reg (p : Pixels) (q : Reg) :
    (s.setPixels p).reg q = s.reg q := rfl
@[simp] theorem State.setPixels_readByte (p : Pixels) (addr : Nat) :
    (s.setPixels p).readByte addr = s.readByte addr := rfl
@[simp] theorem State.setPixels_key (p : Pixels) (j : Key) :
    (s.setPixels p).key j = s.key j := rfl
@[simp] theorem State.setPixels_effAddr (p : Pixels) (d : Nat) :
    (s.setPixels p).effAddr d = s.effAddr d := rfl
@[simp] theorem State.setPixels_rnd (p : Pixels) :
    (s.setPixels p).rnd = s.rnd := rfl

/-! ### setMem -/

@[simp] theorem State.setMem_cfg (m : Memory) :
    (s.setMem m).cfg = s.cfg := rfl
@[simp] theorem State.setMem_regs (m : Memory) :
    (s.setMem m).regs = s.regs := rfl
@[simp] theorem State.setMem_i (m : Memory) :
    (s.setMem m).i = s.i := rfl
@[simp] theorem State.setMem_pc (m : Memory) :
    (s.setMem m).pc = s.pc := rfl
@[simp] theorem State.setMem_stack (m : Memory) :
    (s.setMem m).stack = s.stack := rfl
@[simp] theorem State.setMem_dt (m : Memory) :
    (s.setMem m).dt = s.dt := rfl
@[simp] theorem State.setMem_keys (m : Memory) :
    (s.setMem m).keys = s.keys := rfl
@[simp] theorem State.setMem_pixels (m : Memory) :
    (s.setMem m).pixels = s.pixels := rfl
@[simp] theorem State.setMem_mem (m : Memory) :
    (s.setMem m).mem = m := rfl
@[simp] theorem State.setMem_halt (m : Memory) :
    (s.setMem m).halt = s.halt := rfl
@[simp] theorem State.setMem_draws (m : Memory) :
    (s.setMem m).draws = s.draws := rfl
@[simp] theorem State.setMem_reg (m : Memory) (q : Reg) :
    (s.setMem m).reg q = s.reg q := rfl
@[simp] theorem State.setMem_pixel (m : Memory) (px py : Nat) :
    (s.setMem m).pixel px py = s.pixel px py := rfl
@[simp] theorem State.setMem_key (m : Memory) (j : Key) :
    (s.setMem m).key j = s.key j := rfl
@[simp] theorem State.setMem_effAddr (m : Memory) (d : Nat) :
    (s.setMem m).effAddr d = s.effAddr d := rfl
@[simp] theorem State.setMem_rnd (m : Memory) :
    (s.setMem m).rnd = s.rnd := rfl

/-! ### setHalt -/

@[simp] theorem State.setHalt_cfg (h : Option FaultRecord) :
    (s.setHalt h).cfg = s.cfg := rfl
@[simp] theorem State.setHalt_regs (h : Option FaultRecord) :
    (s.setHalt h).regs = s.regs := rfl
@[simp] theorem State.setHalt_i (h : Option FaultRecord) :
    (s.setHalt h).i = s.i := rfl
@[simp] theorem State.setHalt_pc (h : Option FaultRecord) :
    (s.setHalt h).pc = s.pc := rfl
@[simp] theorem State.setHalt_stack (h : Option FaultRecord) :
    (s.setHalt h).stack = s.stack := rfl
@[simp] theorem State.setHalt_dt (h : Option FaultRecord) :
    (s.setHalt h).dt = s.dt := rfl
@[simp] theorem State.setHalt_keys (h : Option FaultRecord) :
    (s.setHalt h).keys = s.keys := rfl
@[simp] theorem State.setHalt_pixels (h : Option FaultRecord) :
    (s.setHalt h).pixels = s.pixels := rfl
@[simp] theorem State.setHalt_mem (h : Option FaultRecord) :
    (s.setHalt h).mem = s.mem := rfl
@[simp] theorem State.setHalt_halt (h : Option FaultRecord) :
    (s.setHalt h).halt = h := rfl
@[simp] theorem State.setHalt_draws (h : Option FaultRecord) :
    (s.setHalt h).draws = s.draws := rfl
@[simp] theorem State.setHalt_reg (h : Option FaultRecord) (q : Reg) :
    (s.setHalt h).reg q = s.reg q := rfl
@[simp] theorem State.setHalt_readByte (h : Option FaultRecord) (addr : Nat) :
    (s.setHalt h).readByte addr = s.readByte addr := rfl
@[simp] theorem State.setHalt_pixel (h : Option FaultRecord) (px py : Nat) :
    (s.setHalt h).pixel px py = s.pixel px py := rfl
@[simp] theorem State.setHalt_key (h : Option FaultRecord) (j : Key) :
    (s.setHalt h).key j = s.key j := rfl
@[simp] theorem State.setHalt_effAddr (h : Option FaultRecord) (d : Nat) :
    (s.setHalt h).effAddr d = s.effAddr d := rfl
@[simp] theorem State.setHalt_rnd (h : Option FaultRecord) :
    (s.setHalt h).rnd = s.rnd := rfl

/-! ### setDraws -/

@[simp] theorem State.setDraws_cfg (n : Nat) :
    (s.setDraws n).cfg = s.cfg := rfl
@[simp] theorem State.setDraws_regs (n : Nat) :
    (s.setDraws n).regs = s.regs := rfl
@[simp] theorem State.setDraws_i (n : Nat) :
    (s.setDraws n).i = s.i := rfl
@[simp] theorem State.setDraws_pc (n : Nat) :
    (s.setDraws n).pc = s.pc := rfl
@[simp] theorem State.setDraws_stack (n : Nat) :
    (s.setDraws n).stack = s.stack := rfl
@[simp] theorem State.setDraws_dt (n : Nat) :
    (s.setDraws n).dt = s.dt := rfl
@[simp] theorem State.setDraws_keys (n : Nat) :
    (s.setDraws n).keys = s.keys := rfl
@[simp] theorem State.setDraws_pixels (n : Nat) :
    (s.setDraws n).pixels = s.pixels := rfl
@[simp] theorem State.setDraws_mem (n : Nat) :
    (s.setDraws n).mem = s.mem := rfl
@[simp] theorem State.setDraws_halt (n : Nat) :
    (s.setDraws n).halt = s.halt := rfl
@[simp] theorem State.setDraws_draws (n : Nat) :
    (s.setDraws n).draws = n := rfl
@[simp] theorem State.setDraws_reg (n : Nat) (q : Reg) :
    (s.setDraws n).reg q = s.reg q := rfl
@[simp] theorem State.setDraws_readByte (n : Nat) (addr : Nat) :
    (s.setDraws n).readByte addr = s.readByte addr := rfl
@[simp] theorem State.setDraws_pixel (n : Nat) (px py : Nat) :
    (s.setDraws n).pixel px py = s.pixel px py := rfl
@[simp] theorem State.setDraws_key (n : Nat) (j : Key) :
    (s.setDraws n).key j = s.key j := rfl
@[simp] theorem State.setDraws_effAddr (n : Nat) (d : Nat) :
    (s.setDraws n).effAddr d = s.effAddr d := rfl

/-! ### setReg -/

@[simp] theorem State.setReg_cfg (r : Reg) (v : Byte) :
    (s.setReg r v).cfg = s.cfg := rfl
@[simp] theorem State.setReg_regs (r : Reg) (v : Byte) :
    (s.setReg r v).regs = s.regs.set r.val v r.isLt := rfl
@[simp] theorem State.setReg_i (r : Reg) (v : Byte) :
    (s.setReg r v).i = s.i := rfl
@[simp] theorem State.setReg_pc (r : Reg) (v : Byte) :
    (s.setReg r v).pc = s.pc := rfl
@[simp] theorem State.setReg_stack (r : Reg) (v : Byte) :
    (s.setReg r v).stack = s.stack := rfl
@[simp] theorem State.setReg_dt (r : Reg) (v : Byte) :
    (s.setReg r v).dt = s.dt := rfl
@[simp] theorem State.setReg_keys (r : Reg) (v : Byte) :
    (s.setReg r v).keys = s.keys := rfl
@[simp] theorem State.setReg_pixels (r : Reg) (v : Byte) :
    (s.setReg r v).pixels = s.pixels := rfl
@[simp] theorem State.setReg_mem (r : Reg) (v : Byte) :
    (s.setReg r v).mem = s.mem := rfl
@[simp] theorem State.setReg_halt (r : Reg) (v : Byte) :
    (s.setReg r v).halt = s.halt := rfl
@[simp] theorem State.setReg_draws (r : Reg) (v : Byte) :
    (s.setReg r v).draws = s.draws := rfl
@[simp] theorem State.setReg_readByte (r : Reg) (v : Byte) (addr : Nat) :
    (s.setReg r v).readByte addr = s.readByte addr := rfl
@[simp] theorem State.setReg_pixel (r : Reg) (v : Byte) (px py : Nat) :
    (s.setReg r v).pixel px py = s.pixel px py := rfl
@[simp] theorem State.setReg_key (r : Reg) (v : Byte) (j : Key) :
    (s.setReg r v).key j = s.key j := rfl
@[simp] theorem State.setReg_effAddr (r : Reg) (v : Byte) (d : Nat) :
    (s.setReg r v).effAddr d = s.effAddr d := rfl
@[simp] theorem State.setReg_rnd (r : Reg) (v : Byte) :
    (s.setReg r v).rnd = s.rnd := rfl

/-! ### writeByte -/

@[simp] theorem State.writeByte_cfg (a : Nat) (v : Byte) :
    (s.writeByte a v).cfg = s.cfg := rfl
@[simp] theorem State.writeByte_regs (a : Nat) (v : Byte) :
    (s.writeByte a v).regs = s.regs := rfl
@[simp] theorem State.writeByte_i (a : Nat) (v : Byte) :
    (s.writeByte a v).i = s.i := rfl
@[simp] theorem State.writeByte_pc (a : Nat) (v : Byte) :
    (s.writeByte a v).pc = s.pc := rfl
@[simp] theorem State.writeByte_stack (a : Nat) (v : Byte) :
    (s.writeByte a v).stack = s.stack := rfl
@[simp] theorem State.writeByte_dt (a : Nat) (v : Byte) :
    (s.writeByte a v).dt = s.dt := rfl
@[simp] theorem State.writeByte_keys (a : Nat) (v : Byte) :
    (s.writeByte a v).keys = s.keys := rfl
@[simp] theorem State.writeByte_pixels (a : Nat) (v : Byte) :
    (s.writeByte a v).pixels = s.pixels := rfl
@[simp] theorem State.writeByte_mem (a : Nat) (v : Byte) :
    (s.writeByte a v).mem = s.mem.write s.cfg a v := rfl
@[simp] theorem State.writeByte_halt (a : Nat) (v : Byte) :
    (s.writeByte a v).halt = s.halt := rfl
@[simp] theorem State.writeByte_draws (a : Nat) (v : Byte) :
    (s.writeByte a v).draws = s.draws := rfl
@[simp] theorem State.writeByte_reg (a : Nat) (v : Byte) (q : Reg) :
    (s.writeByte a v).reg q = s.reg q := rfl
@[simp] theorem State.writeByte_pixel (a : Nat) (v : Byte) (px py : Nat) :
    (s.writeByte a v).pixel px py = s.pixel px py := rfl
@[simp] theorem State.writeByte_key (a : Nat) (v : Byte) (j : Key) :
    (s.writeByte a v).key j = s.key j := rfl
@[simp] theorem State.writeByte_effAddr (a : Nat) (v : Byte) (d : Nat) :
    (s.writeByte a v).effAddr d = s.effAddr d := rfl
@[simp] theorem State.writeByte_rnd (a : Nat) (v : Byte) :
    (s.writeByte a v).rnd = s.rnd := rfl

/-! ### advancePc -/

@[simp] theorem State.advancePc_cfg :
    s.advancePc.cfg = s.cfg := rfl
@[simp] theorem State.advancePc_regs :
    s.advancePc.regs = s.regs := rfl
@[simp] theorem State.advancePc_i :
    s.advancePc.i = s.i := rfl
@[simp] theorem State.advancePc_pc :
    s.advancePc.pc = s.pc + 2 := rfl
@[simp] theorem State.advancePc_stack :
    s.advancePc.stack = s.stack := rfl
@[simp] theorem State.advancePc_dt :
    s.advancePc.dt = s.dt := rfl
@[simp] theorem State.advancePc_keys :
    s.advancePc.keys = s.keys := rfl
@[simp] theorem State.advancePc_pixels :
    s.advancePc.pixels = s.pixels := rfl
@[simp] theorem State.advancePc_mem :
    s.advancePc.mem = s.mem := rfl
@[simp] theorem State.advancePc_halt :
    s.advancePc.halt = s.halt := rfl
@[simp] theorem State.advancePc_draws :
    s.advancePc.draws = s.draws := rfl
@[simp] theorem State.advancePc_reg (q : Reg) :
    s.advancePc.reg q = s.reg q := rfl
@[simp] theorem State.advancePc_readByte (addr : Nat) :
    s.advancePc.readByte addr = s.readByte addr := rfl
@[simp] theorem State.advancePc_pixel (px py : Nat) :
    s.advancePc.pixel px py = s.pixel px py := rfl
@[simp] theorem State.advancePc_key (j : Key) :
    s.advancePc.key j = s.key j := rfl
@[simp] theorem State.advancePc_effAddr (d : Nat) :
    s.advancePc.effAddr d = s.effAddr d := rfl
@[simp] theorem State.advancePc_rnd :
    s.advancePc.rnd = s.rnd := rfl

/-! ### rewindPc -/

@[simp] theorem State.rewindPc_cfg :
    s.rewindPc.cfg = s.cfg := rfl
@[simp] theorem State.rewindPc_regs :
    s.rewindPc.regs = s.regs := rfl
@[simp] theorem State.rewindPc_i :
    s.rewindPc.i = s.i := rfl
@[simp] theorem State.rewindPc_pc :
    s.rewindPc.pc = s.pc - 2 := rfl
@[simp] theorem State.rewindPc_stack :
    s.rewindPc.stack = s.stack := rfl
@[simp] theorem State.rewindPc_dt :
    s.rewindPc.dt = s.dt := rfl
@[simp] theorem State.rewindPc_keys :
    s.rewindPc.keys = s.keys := rfl
@[simp] theorem State.rewindPc_pixels :
    s.rewindPc.pixels = s.pixels := rfl
@[simp] theorem State.rewindPc_mem :
    s.rewindPc.mem = s.mem := rfl
@[simp] theorem State.rewindPc_halt :
    s.rewindPc.halt = s.halt := rfl
@[simp] theorem State.rewindPc_draws :
    s.rewindPc.draws = s.draws := rfl
@[simp] theorem State.rewindPc_reg (q : Reg) :
    s.rewindPc.reg q = s.reg q := rfl
@[simp] theorem State.rewindPc_readByte (addr : Nat) :
    s.rewindPc.readByte addr = s.readByte addr := rfl
@[simp] theorem State.rewindPc_pixel (px py : Nat) :
    s.rewindPc.pixel px py = s.pixel px py := rfl
@[simp] theorem State.rewindPc_key (j : Key) :
    s.rewindPc.key j = s.key j := rfl
@[simp] theorem State.rewindPc_effAddr (d : Nat) :
    s.rewindPc.effAddr d = s.effAddr d := rfl
@[simp] theorem State.rewindPc_rnd :
    s.rewindPc.rnd = s.rnd := rfl

/-! ### push -/

@[simp] theorem State.push_cfg (a : Addr) :
    (s.push a).cfg = s.cfg := rfl
@[simp] theorem State.push_regs (a : Addr) :
    (s.push a).regs = s.regs := rfl
@[simp] theorem State.push_i (a : Addr) :
    (s.push a).i = s.i := rfl
@[simp] theorem State.push_pc (a : Addr) :
    (s.push a).pc = s.pc := rfl
@[simp] theorem State.push_stack (a : Addr) :
    (s.push a).stack = a :: s.stack := rfl
@[simp] theorem State.push_dt (a : Addr) :
    (s.push a).dt = s.dt := rfl
@[simp] theorem State.push_keys (a : Addr) :
    (s.push a).keys = s.keys := rfl
@[simp] theorem State.push_pixels (a : Addr) :
    (s.push a).pixels = s.pixels := rfl
@[simp] theorem State.push_mem (a : Addr) :
    (s.push a).mem = s.mem := rfl
@[simp] theorem State.push_halt (a : Addr) :
    (s.push a).halt = s.halt := rfl
@[simp] theorem State.push_draws (a : Addr) :
    (s.push a).draws = s.draws := rfl
@[simp] theorem State.push_reg (a : Addr) (q : Reg) :
    (s.push a).reg q = s.reg q := rfl
@[simp] theorem State.push_readByte (a : Addr) (addr : Nat) :
    (s.push a).readByte addr = s.readByte addr := rfl
@[simp] theorem State.push_pixel (a : Addr) (px py : Nat) :
    (s.push a).pixel px py = s.pixel px py := rfl
@[simp] theorem State.push_key (a : Addr) (j : Key) :
    (s.push a).key j = s.key j := rfl
@[simp] theorem State.push_effAddr (a : Addr) (d : Nat) :
    (s.push a).effAddr d = s.effAddr d := rfl
@[simp] theorem State.push_rnd (a : Addr) :
    (s.push a).rnd = s.rnd := rfl

/-! ### setKey -/

@[simp] theorem State.setKey_cfg (k : Key) (b : Bool) :
    (s.setKey k b).cfg = s.cfg := rfl
@[simp] theorem State.setKey_regs (k : Key) (b : Bool) :
    (s.setKey k b).regs = s.regs := rfl
@[simp] theorem State.setKey_i (k : Key) (b : Bool) :
    (s.setKey k b).i = s.i := rfl
@[simp] theorem State.setKey_pc (k : Key) (b : Bool) :
    (s.setKey k b).pc = s.pc := rfl
@[simp] theorem State.setKey_stack (k : Key) (b : Bool) :
    (s.setKey k b).stack = s.stack := rfl
@[simp] theorem State.setKey_dt (k : Key) (b : Bool) :
    (s.setKey k b).dt = s.dt := rfl
@[simp] theorem State.setKey_keys (k : Key) (b : Bool) :
    (s.setKey k b).keys = s.keys.set k.val b k.isLt := rfl
@[simp] theorem State.setKey_pixels (k : Key) (b : Bool) :
    (s.setKey k b).pixels = s.pixels := rfl
@[simp] theorem State.setKey_mem (k : Key) (b : Bool) :
    (s.setKey k b).mem = s.mem := rfl
@[simp] theorem State.setKey_halt (k : Key) (b : Bool) :
    (s.setKey k b).halt = s.halt := rfl
@[simp] theorem State.setKey_draws (k : Key) (b : Bool) :
    (s.setKey k b).draws = s.draws := rfl
@[simp] theorem State.setKey_reg (k : Key) (b : Bool) (q : Reg) :
    (s.setKey k b).reg q = s.reg q := rfl
@[simp] theorem State.setKey_readByte (k : Key) (b : Bool) (addr : Nat) :
    (s.setKey k b).readByte addr = s.readByte addr := rfl
@[simp] theorem State.setKey_pixel (k : Key) (b : Bool) (px py : Nat) :
    (s.setKey k b).pixel px py = s.pixel px py := rfl
@[simp] theorem State.setKey_effAddr (k : Key) (b : Bool) (d : Nat) :
    (s.setKey k b).effAddr d = s.effAddr d := rfl
@[simp] theorem State.setKey_rnd (k : Key) (b : Bool) :
    (s.setKey k b).rnd = s.rnd := rfl

/-! ### countDraw -/

@[simp] theorem State.countDraw_cfg :
    s.countDraw.cfg = s.cfg := rfl
@[simp] theorem State.countDraw_regs :
    s.countDraw.regs = s.regs := rfl
@[simp] theorem State.countDraw_i :
    s.countDraw.i = s.i := rfl
@[simp] theorem State.countDraw_pc :
    s.countDraw.pc = s.pc := rfl
@[simp] theorem State.countDraw_stack :
    s.countDraw.stack = s.stack := rfl
@[simp] theorem State.countDraw_dt :
    s.countDraw.dt = s.dt := rfl
@[simp] theorem State.countDraw_keys :
    s.countDraw.keys = s.keys := rfl
@[simp] theorem State.countDraw_pixels :
    s.countDraw.pixels = s.pixels := rfl
@[simp] theorem State.countDraw_mem :
    s.countDraw.mem = s.mem := rfl
@[simp] theorem State.countDraw_halt :
    s.countDraw.halt = s.halt := rfl
@[simp] theorem State.countDraw_draws :
    s.countDraw.draws = s.draws + 1 := rfl
@[simp] theorem State.countDraw_reg (q : Reg) :
    s.countDraw.reg q = s.reg q := rfl
@[simp] theorem State.countDraw_readByte (addr : Nat) :
    s.countDraw.readByte addr = s.readByte addr := rfl
@[simp] theorem State.countDraw_pixel (px py : Nat) :
    s.countDraw.pixel px py = s.pixel px py := rfl
@[simp] theorem State.countDraw_key (j : Key) :
    s.countDraw.key j = s.key j := rfl
@[simp] theorem State.countDraw_effAddr (d : Nat) :
    s.countDraw.effAddr d = s.effAddr d := rfl

/-! ### raise -/

@[simp] theorem State.raise_cfg (f : Fault) (a : Addr) (w : Option Word) :
    (s.raise f a w).cfg = s.cfg := rfl
@[simp] theorem State.raise_regs (f : Fault) (a : Addr) (w : Option Word) :
    (s.raise f a w).regs = s.regs := rfl
@[simp] theorem State.raise_i (f : Fault) (a : Addr) (w : Option Word) :
    (s.raise f a w).i = s.i := rfl
@[simp] theorem State.raise_pc (f : Fault) (a : Addr) (w : Option Word) :
    (s.raise f a w).pc = s.pc := rfl
@[simp] theorem State.raise_stack (f : Fault) (a : Addr) (w : Option Word) :
    (s.raise f a w).stack = s.stack := rfl
@[simp] theorem State.raise_dt (f : Fault) (a : Addr) (w : Option Word) :
    (s.raise f a w).dt = s.dt := rfl
@[simp] theorem State.raise_keys (f : Fault) (a : Addr) (w : Option Word) :
    (s.raise f a w).keys = s.keys := rfl
@[simp] theorem State.raise_pixels (f : Fault) (a : Addr) (w : Option Word) :
    (s.raise f a w).pixels = s.pixels := rfl
@[simp] theorem State.raise_mem (f : Fault) (a : Addr) (w : Option Word) :
    (s.raise f a w).mem = s.mem := rfl
@[simp] theorem State.raise_halt (f : Fault) (a : Addr) (w : Option Word) :
    (s.raise f a w).halt = some ⟨f, a, w⟩ := rfl
@[simp] theorem State.raise_draws (f : Fault) (a : Addr) (w : Option Word) :
    (s.raise f a w).draws = s.draws := rfl
@[simp] theorem State.raise_reg (f : Fault) (a : Addr) (w : Option Word) (q : Reg) :
    (s.raise f a w).reg q = s.reg q := rfl
@[simp] theorem State.raise_readByte (f : Fault) (a : Addr) (w : Option Word) (addr : Nat) :
    (s.raise f a w).readByte addr = s.readByte addr := rfl
@[simp] theorem State.raise_pixel (f : Fault) (a : Addr) (w : Option Word) (px py : Nat) :
    (s.raise f a w).pixel px py = s.pixel px py := rfl
@[simp] theorem State.raise_key (f : Fault) (a : Addr) (w : Option Word) (j : Key) :
    (s.raise f a w).key j = s.key j := rfl
@[simp] theorem State.raise_effAddr (f : Fault) (a : Addr) (w : Option Word) (d : Nat) :
    (s.raise f a w).effAddr d = s.effAddr d := rfl
@[simp] theorem State.raise_rnd (f : Fault) (a : Addr) (w : Option Word) :
    (s.raise f a w).rnd = s.rnd := rfl

/-! ### bumpI -/

@[simp] theorem State.bumpI_cfg (x : Reg) :
    (s.bumpI x).cfg = s.cfg := rfl
@[simp] theorem State.bumpI_regs (x : Reg) :
    (s.bumpI x).regs = s.regs := rfl
@[simp] theorem State.bumpI_i (x : Reg) :
    (s.bumpI x).i = s.i + BitVec.ofNat 16 (x.val + 1) := rfl
@[simp] theorem State.bumpI_pc (x : Reg) :
    (s.bumpI x).pc = s.pc := rfl
@[simp] theorem State.bumpI_stack (x : Reg) :
    (s.bumpI x).stack = s.stack := rfl
@[simp] theorem State.bumpI_dt (x : Reg) :
    (s.bumpI x).dt = s.dt := rfl
@[simp] theorem State.bumpI_keys (x : Reg) :
    (s.bumpI x).keys = s.keys := rfl
@[simp] theorem State.bumpI_pixels (x : Reg) :
    (s.bumpI x).pixels = s.pixels := rfl
@[simp] theorem State.bumpI_mem (x : Reg) :
    (s.bumpI x).mem = s.mem := rfl
@[simp] theorem State.bumpI_halt (x : Reg) :
    (s.bumpI x).halt = s.halt := rfl
@[simp] theorem State.bumpI_draws (x : Reg) :
    (s.bumpI x).draws = s.draws := rfl
@[simp] theorem State.bumpI_reg (x : Reg) (q : Reg) :
    (s.bumpI x).reg q = s.reg q := rfl
@[simp] theorem State.bumpI_readByte (x : Reg) (addr : Nat) :
    (s.bumpI x).readByte addr = s.readByte addr := rfl
@[simp] theorem State.bumpI_pixel (x : Reg) (px py : Nat) :
    (s.bumpI x).pixel px py = s.pixel px py := rfl
@[simp] theorem State.bumpI_key (x : Reg) (j : Key) :
    (s.bumpI x).key j = s.key j := rfl
@[simp] theorem State.bumpI_rnd (x : Reg) :
    (s.bumpI x).rnd = s.rnd := rfl

end Sys2Proof.Machine
end

