-- ==== Sys2Proof/Laws/Ops.lean ====
section
/-! SUPPORT. One lemma for each shared operation over registers, keys, memory and pixels: read after write, and
that memory operations keep the canonical form. -/

namespace Sys2Proof.Machine

/-! ### Registers and keys -/

@[simp] theorem State.reg_setReg (s : State) (r q : Reg) (v : Byte) :
    (s.setReg r v).reg q = if q = r then v else s.reg q := by
  simp only [State.reg, State.setReg, State.setRegs, Vector.get_eq_getElem, Vector.getElem_set,
    Fin.ext_iff, eq_comm]

@[simp] theorem State.key_setKey (s : State) (k j : Key) (b : Bool) :
    (s.setKey k b).key j = if j = k then b else s.key j := by
  simp only [State.key, State.setKey, State.setKeys, Vector.get_eq_getElem, Vector.getElem_set,
    Fin.ext_iff, eq_comm]

theorem mem_regsUpTo {x k : Reg} : k ∈ regsUpTo x ↔ k ≤ x := by
  simp [regsUpTo]

theorem flagByte_eq (b : Bool) : flagByte b = if b then 1 else 0 := rfl

/-! ### Memory: what is listed -/

theorem Memory.find?_insert (m : Memory) (a b : Nat) (v : Byte) :
    (m.insert a v).find? b = if b = a then some v else m.find? b := by
  induction m with
  | nil => simp only [Memory.insert, Memory.find?, eq_comm]
  | cons c m ih =>
    obtain ⟨d, u⟩ := c
    simp only [Memory.insert]
    split
    · simp only [Memory.find?, eq_comm]
    · split
      · subst d; simp only [Memory.find?, eq_comm]; split <;> simp_all
      · simp only [Memory.find?, ih]; split <;> split <;> simp_all

theorem Memory.erase_sublist (m : Memory) (a : Nat) : (m.erase a).Sublist m := by
  induction m with
  | nil => exact .slnil
  | cons c m ih =>
    simp only [Memory.erase]
    split
    · exact List.sublist_cons_self _ _
    · exact ih.cons_cons _

theorem Memory.find?_eq_none {m : Memory} {a : Nat} (h : ∀ c ∈ m, c.1 ≠ a) : m.find? a = none := by
  induction m with
  | nil => rfl
  | cons c m ih =>
    simp only [List.forall_mem_cons] at h
    simp only [Memory.find?, if_neg h.1, ih h.2]

theorem Memory.find?_erase {m : Memory} (hm : m.Pairwise fun c d => c.1 < d.1) (a b : Nat) :
    (m.erase a).find? b = if b = a then none else m.find? b := by
  induction m with
  | nil => simp [Memory.erase, Memory.find?]
  | cons c m ih =>
    obtain ⟨d, u⟩ := c
    rw [List.pairwise_cons] at hm
    by_cases hd : d = a
    · subst d
      simp only [Memory.erase, if_true, Memory.find?, eq_comm (a := a)]
      split
      · next h => exact Memory.find?_eq_none fun c hc => by have := hm.1 c hc; simp_all; omega
      · rfl
    · simp only [Memory.erase, if_neg hd, Memory.find?, ih hm.2]
      split <;> split <;> simp_all

theorem Memory.mem_insert {m : Memory} {a : Nat} {v : Byte} {c : Host.Cell}
    (h : c ∈ m.insert a v) : c = (a, v) ∨ c ∈ m := by
  induction m with
  | nil => simpa [Memory.insert] using h
  | cons d m ih =>
    simp only [Memory.insert] at h
    split at h
    · simpa using h
    · split at h
      · simp only [List.mem_cons] at h ⊢; tauto
      · simp only [List.mem_cons] at h ⊢
        rcases h with h | h
        · tauto
        · rcases ih h with h | h <;> tauto

theorem Memory.insert_pairwise {m : Memory} (hm : m.Pairwise fun c d => c.1 < d.1) (a : Nat)
    (v : Byte) : (m.insert a v).Pairwise fun c d => c.1 < d.1 := by
  induction m with
  | nil => simp [Memory.insert]
  | cons d m ih =>
    obtain ⟨b, u⟩ := d
    have hm' := List.pairwise_cons.1 hm
    simp only [Memory.insert]
    split
    · next hlt =>
      refine List.pairwise_cons.2 ⟨fun c hc => ?_, hm⟩
      rcases List.mem_cons.1 hc with rfl | hc
      · exact hlt
      · exact hlt.trans (hm'.1 c hc)
    · split
      · next hba => subst hba; exact List.pairwise_cons.2 ⟨hm'.1, hm'.2⟩
      · refine List.pairwise_cons.2 ⟨fun c hc => ?_, ih hm'.2⟩
        rcases Memory.mem_insert hc with rfl | hc
        · show b < a; omega
        · exact hm'.1 c hc

/-! ### Memory: canonical form and read after write -/

theorem Memory.wf_nil (c : Config) : Memory.wf [] c := ⟨.nil, fun _ h => absurd h List.not_mem_nil⟩

/-- Storing a byte at an address that exists keeps the canonical form. -/
theorem Memory.wf_write {m : Memory} {c : Config} (hm : m.wf c) {a : Nat} (ha : a < c.memSize)
    (v : Byte) : (m.write c a v).wf c := by
  unfold Memory.write
  split
  · exact ⟨hm.1.sublist (m.erase_sublist a), fun d hd => hm.2 d ((m.erase_sublist a).subset hd)⟩
  · next hf =>
    refine ⟨Memory.insert_pairwise hm.1 a v, fun d hd => ?_⟩
    rcases Memory.mem_insert hd with rfl | hd
    · exact ⟨ha, hf⟩
    · exact hm.2 d hd

theorem Memory.read_unlisted {m : Memory} {c : Config} {a : Nat} (h : m.find? a = none) :
    m.read c a = Memory.unlisted c a := by rw [Memory.read, h]; rfl

/-- Read after write: the byte stored at `a`, and every other byte as before. -/
theorem Memory.read_write {m : Memory} {c : Config} (hm : m.wf c) (a b : Nat) (v : Byte) :
    (m.write c a v).read c b = if b = a then v else m.read c b := by
  unfold Memory.write Memory.read
  split
  · next hf =>
    rw [Memory.find?_erase hm.1]
    split
    · next hb => subst hb; simp [Memory.unlisted, hf]
    · rfl
  · rw [Memory.find?_insert]; split <;> rfl

/-- Storing the bytes of a list at addresses that exist keeps the canonical form. -/
theorem Memory.wf_writeList {vs : List Byte} {m : Memory} {c : Config} (hm : m.wf c) {a : Nat}
    (ha : a + vs.length ≤ c.memSize) : (m.writeList c a vs).wf c := by
  induction vs generalizing m a with
  | nil => exact hm
  | cons v vs ih =>
    simp only [List.length_cons] at ha
    exact ih (Memory.wf_write hm (by omega) v) (by omega)

/-- Read after a store of several bytes: byte `b - a` of the list where it reaches, else as before. -/
theorem Memory.read_writeList {vs : List Byte} {m : Memory} {c : Config} (hm : m.wf c) {a : Nat}
    (ha : a + vs.length ≤ c.memSize) (b : Nat) :
    (m.writeList c a vs).read c b =
      if a ≤ b then (vs[b - a]?).getD (m.read c b) else m.read c b := by
  induction vs generalizing m a with
  | nil => simp [Memory.writeList]
  | cons v vs ih =>
    simp only [List.length_cons] at ha
    rw [Memory.writeList, ih (Memory.wf_write hm (by omega) v) (by omega), Memory.read_write hm]
    by_cases h : b = a
    · subst h; simp
    · by_cases h' : a ≤ b
      · have e : b - a = (b - (a + 1)) + 1 := by omega
        rw [if_pos (by omega), if_neg h, if_pos h', e, List.getElem?_cons_succ]
      · rw [if_neg (by omega), if_neg h, if_neg h']

/-- Two canonical memories that list the same bytes are the same data. -/
theorem Memory.ext_find? {m n : Memory} {c : Config} (hm : m.wf c) (hn : n.wf c)
    (h : ∀ a, m.find? a = n.find? a) : m = n := by
  obtain ⟨hm, -⟩ := hm
  obtain ⟨hn, -⟩ := hn
  induction m generalizing n with
  | nil =>
    cases n with
    | nil => rfl
    | cons d n => simpa [Memory.find?] using h d.1
  | cons c m ih =>
    cases n with
    | nil => simpa [Memory.find?] using h c.1
    | cons d n =>
      obtain ⟨a, u⟩ := c
      obtain ⟨b, v⟩ := d
      rw [List.pairwise_cons] at hm hn
      have hmlt : ∀ e, e ≤ a → Memory.find? m e = none := fun e he =>
        Memory.find?_eq_none fun c hc => by have := hm.1 c hc; simp_all; omega
      have hnlt : ∀ e, e ≤ b → Memory.find? n e = none := fun e he =>
        Memory.find?_eq_none fun c hc => by have := hn.1 c hc; simp_all; omega
      have hab : a = b := by
        have ha := h a
        have hb := h b
        simp only [Memory.find?, if_true] at ha hb
        rcases lt_trichotomy a b with hlt | rfl | hlt
        · rw [if_neg (by omega), hnlt a (by omega)] at ha; simp at ha
        · rfl
        · rw [if_neg (by omega), hmlt b (by omega)] at hb; simp at hb
      subst hab
      have huv : u = v := by simpa [Memory.find?] using h a
      subst huv
      rw [ih (n := n) ?_ hm.2 hn.2]
      intro e
      by_cases he : a = e
      · subst he; rw [hmlt _ le_rfl, hnlt _ le_rfl]
      · simpa [Memory.find?, he] using h e

/-! ### Pixels -/

@[simp] theorem Pixels.get_clear (px py : Nat) : Pixels.get Pixels.clear px py = false := rfl

theorem Pixels.mem_insert {p : Pixels} {t u : Nat × Nat} :
    u ∈ Pixels.insert p t ↔ u = t ∨ u ∈ p := by
  induction p with
  | nil => simp [Pixels.insert]
  | cons v p ih =>
    simp only [Pixels.insert]
    split
    · simp
    · split
      · next h => subst h; simp
      · simp only [List.mem_cons, ih]; tauto

/-- Reading a pixel after writing one. -/
theorem Pixels.get_set (p : Pixels) (px py qx qy : Nat) (b : Bool) :
    Pixels.get (Pixels.set p px py b) qx qy =
      if qx = px ∧ qy = py then b else Pixels.get p qx qy := by
  unfold Pixels.set Pixels.get
  cases b with
  | true =>
    simp only [if_true, Pixels.mem_insert, Prod.mk.injEq]
    split <;> simp_all
  | false =>
    simp only [Bool.false_eq_true, if_false, List.mem_filter, Bool.not_eq_true',
      decide_eq_false_iff_not, Prod.mk.injEq]
    split <;> simp_all

theorem Pixels.insert_pairwise {p : Pixels} (hp : p.Pairwise cellBefore) (t : Nat × Nat) :
    (Pixels.insert p t).Pairwise cellBefore := by
  induction p with
  | nil => simp [Pixels.insert]
  | cons v p ih =>
    have hp' := List.pairwise_cons.1 hp
    simp only [Pixels.insert]
    split
    · next hlt =>
      refine List.pairwise_cons.2 ⟨fun u hu => ?_, hp⟩
      rcases List.mem_cons.1 hu with rfl | hu
      · exact hlt
      · have := hp'.1 u hu; unfold cellBefore at *; omega
    · split
      · exact hp
      · next h1 h2 =>
        refine List.pairwise_cons.2 ⟨fun u hu => ?_, ih hp'.2⟩
        rcases Pixels.mem_insert.1 hu with rfl | hu
        · have : ¬(v.1 = u.1 ∧ v.2 = u.2) := fun h => h2 (Prod.ext h.1 h.2)
          unfold cellBefore at *; omega
        · exact hp'.1 u hu

theorem Pixels.wf_clear (c : Config) : Pixels.wf Pixels.clear c :=
  ⟨.nil, fun _ h => absurd h List.not_mem_nil⟩

/-- Writing a cell of the grid keeps the canonical form. -/
theorem Pixels.wf_set {p : Pixels} {c : Config} (hp : p.wf c) {px py : Nat} (h : onScreen c px py)
    (b : Bool) : (Pixels.set p px py b).wf c := by
  unfold Pixels.set
  cases b with
  | true =>
    refine ⟨Pixels.insert_pairwise hp.1 _, fun t ht => ?_⟩
    rcases Pixels.mem_insert.1 ht with rfl | ht
    · exact h
    · exact hp.2 t ht
  | false => exact ⟨hp.1.filter _, fun t ht => hp.2 t (List.mem_filter.1 ht).1⟩

end Sys2Proof.Machine
end

