-- ==== Sys2Proof/Laws/Answers.lean ====
section
/-! SUPPORT. One lemma for each shared operation of the meanings and of the step that says everything it can
answer; proofs cite these instead of unfolding the operation. -/

namespace Sys2Proof.Machine

open Host (Outcome)

/-! ### What may change -/

theorem UnchangedBut.refl (parts : List Part) (written : List Reg) (s : State) :
    UnchangedBut parts written s s :=
  ⟨fun _ _ => rfl, fun p _ => by cases p <;> simp [agreeOn]⟩

theorem UnchangedBut.mono {ps qs : List Part} {rs us : List Reg} {s t : State}
    (h : UnchangedBut ps rs s t) (hp : ps ⊆ qs) (hr : rs ⊆ us) : UnchangedBut qs us s t :=
  ⟨fun r hn => h.1 r fun hm => hn (hr hm), fun p hn => h.2 p fun hm => hn (hp hm)⟩

theorem UnchangedBut.raise (s : State) (f : Fault) (a : Addr) (w : Option Word) :
    UnchangedBut [.halt] [] s (s.raise f a w) :=
  ⟨fun _ _ => rfl, fun p hp => by cases p <;> simp_all [agreeOn]⟩

/-! ### Shared operations of the meanings -/

theorem raiseExec_eq (f : Fault) (i : Instr) (s : State) :
    raiseExec f i s = .next (s.raise f (s.pc - 2) (some (encode i))) := rfl

theorem skipIf_eq (c : Bool) (s : State) :
    skipIf c s = .next (s.setPc (if c then s.pc + 2 else s.pc)) := by
  cases c <;> rfl

theorem checkData_of_lt {kMax : Nat} {i : Instr} {s : State} {body : Answer}
    (h : s.effAddr kMax < s.cfg.memSize) : checkData kMax i s body = body :=
  if_neg (by omega)

theorem checkData_of_ge {kMax : Nat} {i : Instr} {s : State} {body : Answer}
    (h : s.cfg.memSize ≤ s.effAddr kMax) :
    checkData kMax i s body = raiseExec (.dataOutOfBounds (s.effAddr kMax)) i s :=
  if_pos h

theorem withKey_of_lt {x : Reg} {i : Instr} {s : State} {body : Key → Answer}
    (h : (s.reg x).toNat < 16) : withKey x i s body = body ⟨(s.reg x).toNat, h⟩ :=
  dif_pos h

theorem withKey_of_ge {x : Reg} {i : Instr} {s : State} {body : Key → Answer}
    (h : ¬ (s.reg x).toNat < 16) :
    withKey x i s body = raiseExec (.keyIndexOutOfRange (s.reg x)) i s :=
  dif_neg h

theorem nextWithFlag_eq (x : Reg) (r c : Byte) (s : State) :
    nextWithFlag x r c s = .next (writeResultAndFlag s.cfg.vfWritePriority x r c s) := rfl

/-- What is left of the two writes of `writeResultAndFlag`: both, but for the target 15, where one survives. -/
theorem reg_writeResultAndFlag (p : VfPriority) (x : Reg) (r c : Byte) (s : State) (q : Reg) :
    (writeResultAndFlag p x r c s).reg q =
      if q = x ∧ (x ≠ vf ∨ p = .result) then r
      else if q = vf ∧ (x ≠ vf ∨ p = .flag) then c else s.reg q := by
  by_cases hx : x = vf <;> by_cases hq : q = x <;> by_cases hv : q = vf <;> cases p <;>
    simp_all [writeResultAndFlag]

/-- `writeResultAndFlag` writes registers only. -/
theorem writeResultAndFlag_eq (p : VfPriority) (x : Reg) (r c : Byte) (s : State) :
    ∃ v, writeResultAndFlag p x r c s = s.setRegs v := by
  cases p <;> exact ⟨_, rfl⟩

theorem drawSprite_of_offScreen {targets : List (Nat × Nat)} {i : Instr} {s : State} {t : Nat × Nat}
    (h : (targets.find? fun t => !decide (onScreen s.cfg t.1 t.2)) = some t) :
    drawSprite targets i s = raiseExec (.drawOutOfBounds t.1 t.2) i s := by
  simp only [drawSprite, h]

theorem drawSprite_of_onScreen {targets : List (Nat × Nat)} {i : Instr} {s : State}
    (h : (targets.find? fun t => !decide (onScreen s.cfg t.1 t.2)) = none) :
    drawSprite targets i s = .next ((s.setPixels (drawTargets s.pixels targets).1).setReg vf
      (flagByte (drawTargets s.pixels targets).2)) := by
  simp only [drawSprite, h]

/-! ### Sprites -/

theorem mem_rowTargets {px py : Nat} {row : Byte} {t : Nat × Nat} :
    t ∈ rowTargets px py row ↔ ∃ c < 8, row.getLsbD (7 - c) = true ∧ t = (px + c, py) := by
  simp only [rowTargets, List.mem_map, List.mem_filter, List.mem_range]
  constructor
  · rintro ⟨c, ⟨hc, hb⟩, rfl⟩; exact ⟨c, hc, hb, rfl⟩
  · rintro ⟨c, hc, hb, rfl⟩; exact ⟨c, ⟨hc, hb⟩, rfl⟩

theorem mem_spriteTargets {rows : List Byte} {px py : Nat} {t : Nat × Nat} :
    t ∈ spriteTargets px py rows ↔
      ∃ r c, ∃ h : r < rows.length, c < 8 ∧ rows[r].getLsbD (7 - c) = true ∧
        t = (px + c, py + r) := by
  induction rows generalizing py with
  | nil => simp [spriteTargets]
  | cons row rows ih =>
    simp only [spriteTargets, List.mem_append, mem_rowTargets, ih]
    constructor
    · rintro (⟨c, hc, hb, rfl⟩ | ⟨r, c, h, hc, hb, rfl⟩)
      · exact ⟨0, c, by simp, hc, hb, rfl⟩
      · exact ⟨r + 1, c, by simpa using h, hc, hb, by simp; omega⟩
    · rintro ⟨r, c, h, hc, hb, rfl⟩
      cases r with
      | zero => exact .inl ⟨c, hc, hb, rfl⟩
      | succ r => exact .inr ⟨r, c, by simpa using h, hc, hb, by simp; omega⟩

/-! ### The step and the HOST's transactions -/

theorem fetchNext_of_ge {s : State} (h : s.cfg.memSize ≤ s.pc.toNat + 1) :
    fetchNext s = .raised (s.raise .fetchOutOfBounds s.pc none) := if_pos h

theorem fetchNext_of_lt {s : State} (h : s.pc.toNat + 1 < s.cfg.memSize) :
    fetchNext s = .word s.wordAtPc s.advancePc := if_neg (by omega)

/-- Everything a step can answer: halted and idle, a fetch fault, an unknown word passed over, or one
decoded instruction executed with `pc` past its word. -/
theorem step_cases (s : State) :
    (s.failed ∧ step s = .next s) ∨
    (s.running ∧ s.cfg.memSize ≤ s.pc.toNat + 1 ∧
      step s = .next (s.raise .fetchOutOfBounds s.pc none)) ∨
    (s.running ∧ s.pc.toNat + 1 < s.cfg.memSize ∧
      (∃ u, decode s.wordAtPc = .unknown u) ∧ step s = .next s.advancePc) ∨
    (s.running ∧ s.pc.toNat + 1 < s.cfg.memSize ∧
      ∃ i, decode s.wordAtPc = .instr i ∧ step s = exec i s.advancePc) := by
  cases hs : s.halt with
  | some r =>
    exact .inl ⟨by simp [State.failed, hs], by simp only [step, stepRequest, hs]⟩
  | none =>
    rcases Nat.lt_or_ge (s.pc.toNat + 1) s.cfg.memSize with h | h
    · cases hd : decode s.wordAtPc with
      | unknown u =>
        refine .inr (.inr (.inl ⟨hs, h, ⟨u, rfl⟩, ?_⟩))
        simp only [step, stepRequest, hs, fetchNext_of_lt h, executeWord, hd, execUnknown]
      | instr i =>
        refine .inr (.inr (.inr ⟨hs, h, i, rfl, ?_⟩))
        simp only [step, stepRequest, hs, fetchNext_of_lt h, executeWord, hd]
    · refine .inr (.inl ⟨hs, h, ?_⟩)
      simp only [step, stepRequest, hs, fetchNext_of_ge h]

/-- Everything a HOST transaction other than a step can answer. -/
theorem transact_cases {x : Transaction} {s t : State} (h : transact x s = .next t) :
    (x = .stepReq ∧ step s = .next t) ∨
    (∃ image, x = .initReq image ∧ (t = s ∨ t = s.loadImage image ∧
      image.length ≤ s.cfg.memSize - s.cfg.programStart)) ∨
    (x = .tickReq ∧ t = decrementTimer s) ∨
    (∃ k b, x = .keyReq k b ∧ t = s.setKey k b) := by
  cases x with
  | stepReq => exact .inl ⟨rfl, h⟩
  | tickReq => exact .inr (.inr (.inl ⟨rfl, by simpa [transact] using h.symm⟩))
  | keyReq k b =>
    refine .inr (.inr (.inr ⟨k, b, rfl, ?_⟩))
    cases b <;> simpa [transact, keydown, keyup] using h.symm
  | initReq image =>
    refine .inr (.inl ⟨image, rfl, ?_⟩)
    simp only [transact, initRequest] at h
    split at h
    · exact .inl (by simpa using h.symm)
    · exact .inr ⟨by simpa using h.symm, by omega⟩

end Sys2Proof.Machine
end

