-- ==== Sys2Proof/Laws/Loops.lean ====
section
/-! SUPPORT. What the loops of the dump, the load, the key scan and the drawing do as a whole (42_address_memory
R94, R95; 44_keys_timers R104; 43_display R99). -/

namespace Sys2Proof.Machine

theorem regsUpTo_nodup (x : Reg) : (regsUpTo x).Nodup :=
  (List.nodup_finRange 16).filter _

/-! ### Dump and load -/

/-- The dump loop writes memory only. -/
theorem foldl_writeByte (l : List Reg) (f : Reg → Nat) (g : Reg → Byte) (s : State) :
    l.foldl (fun t k => t.writeByte (f k) (g k)) s =
      s.setMem (l.foldl (fun m k => m.write s.cfg (f k) (g k)) s.mem) := by
  induction l generalizing s with
  | nil => rfl
  | cons k l ih => rw [List.foldl_cons, ih]; rfl

/-- Storing at addresses that exist, one after another, keeps the canonical form. -/
theorem wf_foldl_write {l : List Reg} {f : Reg → Nat} (g : Reg → Byte) {m : Memory} {c : Config} (hm : m.wf c)
    (hf : ∀ k ∈ l, f k < c.memSize) : (l.foldl (fun m k => m.write c (f k) (g k)) m).wf c := by
  induction l generalizing m with
  | nil => exact hm
  | cons k l ih =>
    rw [List.forall_mem_cons] at hf
    exact ih (Memory.wf_write hm hf.1 _) hf.2

/-- An address the loop does not store at reads as before. -/
theorem read_foldl_write_other {l : List Reg} {f : Reg → Nat} (g : Reg → Byte) {m : Memory} {c : Config}
    (hm : m.wf c) (hf : ∀ k ∈ l, f k < c.memSize) {a : Nat} (ha : ∀ k ∈ l, f k ≠ a) :
    (l.foldl (fun m k => m.write c (f k) (g k)) m).read c a = m.read c a := by
  induction l generalizing m with
  | nil => rfl
  | cons k l ih =>
    rw [List.forall_mem_cons] at hf ha
    rw [List.foldl_cons, ih (Memory.wf_write hm hf.1 _) hf.2 ha.2, Memory.read_write hm,
      if_neg (Ne.symm ha.1)]

/-- Each address the loop stores at reads as its byte, when the addresses are different. -/
theorem read_foldl_write {l : List Reg} {f : Reg → Nat} (g : Reg → Byte) {m : Memory} {c : Config}
    (hm : m.wf c) (hf : ∀ k ∈ l, f k < c.memSize) (hl : l.Nodup)
    (hinj : ∀ j k, f j = f k → j = k) {k : Reg} (hk : k ∈ l) :
    (l.foldl (fun m k => m.write c (f k) (g k)) m).read c (f k) = g k := by
  induction l generalizing m with
  | nil => exact absurd hk List.not_mem_nil
  | cons j l ih =>
    rw [List.forall_mem_cons] at hf
    rw [List.nodup_cons] at hl
    rw [List.foldl_cons]
    rcases List.mem_cons.1 hk with rfl | hk
    · rw [read_foldl_write_other g (Memory.wf_write hm hf.1 _) hf.2, Memory.read_write hm,
        if_pos rfl]
      exact fun j hj h => hl.1 (hinj _ _ h ▸ hj)
    · exact ih (Memory.wf_write hm hf.1 _) hf.2 hl.2 hk

/-- The load loop writes registers only, each the byte for it, whatever the order. -/
theorem foldl_setReg (l : List Reg) (g : Reg → Byte) (s : State) :
    ∃ v, l.foldl (fun t k => t.setReg k (g k)) s = s.setRegs v ∧
      ∀ r, (s.setRegs v).reg r = if r ∈ l then g r else s.reg r := by
  induction l generalizing s with
  | nil => exact ⟨s.regs, rfl, fun r => rfl⟩
  | cons k l ih =>
    obtain ⟨v, hv, hr⟩ := ih (s.setReg k (g k))
    refine ⟨v, by rw [List.foldl_cons, hv]; rfl, fun r => ?_⟩
    have h := hr r
    rw [State.reg_setReg] at h
    rw [show (s.setRegs v).reg r = ((s.setReg k (g k)).setRegs v).reg r from rfl, h]
    by_cases h1 : r ∈ l
    · simp [h1]
    · by_cases h2 : r = k <;> simp [h1, h2]

/-! ### The key scan -/

/-- An ascending scan in which later matches overwrite earlier ones ends with the last match. -/
theorem foldl_overwrite (p : Key → Bool) (l : List Key) (found : Option Key) :
    l.foldl (fun found k => if p k then some k else found) found =
      ((l.filter p).getLast?).or found := by
  induction l generalizing found with
  | nil => simp
  | cons k l ih =>
    rw [List.foldl_cons, ih]
    by_cases h : p k
    · rw [if_pos h, List.filter_cons_of_pos h, List.getLast?_cons]
      cases (List.filter p l).getLast? <;> simp
    · rw [if_neg h, List.filter_cons_of_neg h]

/-- With no key pressed the scan finds none. -/
theorem State.scanKeys_none {s : State} (h : ∀ j, s.key j = false) : s.scanKeys = none := by
  rw [State.scanKeys, foldl_overwrite]
  simp [h]

/-- The scan finds the highest pressed key. -/
theorem State.scanKeys_some {s : State} {k : Key} (hk : s.key k = true)
    (hj : ∀ j, k < j → s.key j = false) : s.scanKeys = some k := by
  rw [State.scanKeys, foldl_overwrite]
  have hm : k ∈ (List.finRange 16).filter s.key := by simp [hk]
  obtain ⟨m, hlast⟩ : ∃ m, ((List.finRange 16).filter s.key).getLast? = some m := by
    cases h : ((List.finRange 16).filter s.key).getLast? with
    | some m => exact ⟨m, rfl⟩
    | none => rw [List.getLast?_eq_none_iff] at h; simp [h] at hm
  have hs : ((List.finRange 16).filter s.key).Pairwise (· < ·) :=
    (List.pairwise_lt_finRange 16).filter _
  have hm' : m ∈ (List.finRange 16).filter s.key := List.mem_of_getLast? hlast
  have hle : k ≤ m := by
    obtain ⟨l, hl⟩ := List.getLast?_eq_some_iff.1 hlast
    rw [hl] at hm hs
    rcases List.mem_append.1 hm with h | h
    · exact (List.pairwise_append.1 hs).2.2 k h m (by simp) |>.le
    · simp only [List.mem_singleton] at h; exact h.le
  rcases hle.lt_or_eq with h | rfl
  · have := (List.mem_filter.1 hm').2
    rw [hj m h] at this
    exact absurd this (by simp)
  · rw [hlast]; rfl

/-! ### Drawing -/

/-- The drawing loop toggles each target once and collects whether one was set. -/
theorem foldl_drawPixel {l : List (Nat × Nat)} (hl : l.Nodup)
    (acc : Pixels × Bool) (px py : Nat) :
    Pixels.get (l.foldl drawPixel acc).1 px py =
        (if (px, py) ∈ l then !Pixels.get acc.1 px py else Pixels.get acc.1 px py) ∧
      ((l.foldl drawPixel acc).2 = true ↔
        acc.2 = true ∨ ∃ t ∈ l, Pixels.get acc.1 t.1 t.2 = true) := by
  induction l generalizing acc with
  | nil => simp
  | cons t l ih =>
    rw [List.nodup_cons] at hl
    obtain ⟨h1, h2⟩ := ih hl.2 (drawPixel acc t)
    have hget : ∀ qx qy, Pixels.get (drawPixel acc t).1 qx qy =
        if qx = t.1 ∧ qy = t.2 then !Pixels.get acc.1 t.1 t.2 else Pixels.get acc.1 qx qy :=
      fun qx qy => Pixels.get_set _ _ _ _ _ _
    rw [List.foldl_cons]
    constructor
    · rw [h1, hget]
      by_cases ht : (px, py) = t
      · subst ht; simp [hl.1]
      · have ht' : ¬(px = t.1 ∧ py = t.2) := fun h => ht (Prod.ext h.1 h.2)
        simp [ht, ht']
    · rw [h2]
      have hsame : ∀ u ∈ l, Pixels.get (drawPixel acc t).1 u.1 u.2 = Pixels.get acc.1 u.1 u.2 := by
        intro u hu
        rw [hget, if_neg]
        rintro ⟨a, b⟩
        exact hl.1 (Prod.ext a b ▸ hu)
      constructor
      · rintro (h | ⟨u, hu, h⟩)
        · simp only [drawPixel, Bool.or_eq_true] at h
          rcases h with h | h
          · exact .inl h
          · exact .inr ⟨t, by simp, h⟩
        · rw [hsame u hu] at h
          exact .inr ⟨u, by simp [hu], h⟩
      · rintro (h | ⟨u, hu, h⟩)
        · exact .inl (by simp [drawPixel, h])
        · rcases List.mem_cons.1 hu with rfl | hu
          · exact .inl (by simp [drawPixel, h])
          · exact .inr ⟨u, hu, by rwa [hsame u hu]⟩

/-- The drawing loop keeps the canonical form of the buffer. -/
theorem wf_foldl_drawPixel {l : List (Nat × Nat)} {c : Config}
    (hs : ∀ t ∈ l, onScreen c t.1 t.2) {acc : Pixels × Bool} (ha : acc.1.wf c) :
    (l.foldl drawPixel acc).1.wf c := by
  induction l generalizing acc with
  | nil => exact ha
  | cons t l ih =>
    rw [List.forall_mem_cons] at hs
    exact ih hs.2 (Pixels.wf_set ha hs.1 _)

theorem rowTargets_nodup (px py : Nat) (row : Byte) : (rowTargets px py row).Nodup := by
  refine (List.Nodup.filter _ List.nodup_range).map fun a b h => ?_
  simp only [Prod.mk.injEq] at h
  omega

/-- Different sprite bits have different targets: nothing wraps. -/
theorem spriteTargets_nodup (rows : List Byte) (px py : Nat) :
    (spriteTargets px py rows).Nodup := by
  induction rows generalizing py with
  | nil => exact .nil
  | cons row rows ih =>
    refine List.nodup_append.2 ⟨rowTargets_nodup px py row, ih _, fun t ht u hu h => ?_⟩
    obtain ⟨c, _, _, rfl⟩ := mem_rowTargets.1 ht
    obtain ⟨r, d, _, _, _, rfl⟩ := mem_spriteTargets.1 hu
    simp only [Prod.mk.injEq] at h
    omega

/-- The targets of a DRW are the pixels under a set sprite bit. -/
theorem mem_targets_iff_covers {s : State} {x y : Reg} {n : Nibble} {px py : Nat} :
    (px, py) ∈ spriteTargets (s.reg x).toNat (s.reg y).toNat (s.spriteRows n.toNat) ↔
      s.covers x y n px py := by
  simp only [mem_spriteTargets, State.covers, State.spriteBit, State.spriteRows]
  constructor
  · rintro ⟨r, c, h, hc, hb, he⟩
    rw [List.length_map, List.length_range] at h
    simp only [Prod.mk.injEq] at he
    exact ⟨r, c, h, hc, by simpa using hb, he.1, he.2⟩
  · rintro ⟨r, c, h, hc, hb, hx, hy⟩
    exact ⟨r, c, by simpa using h, hc, by simpa using hb, by simp [hx, hy]⟩

end Sys2Proof.Machine
end

