-- ==== Sys2Proof/Laws/PerInstr.lean ====
section
/-! SUPPORT. A law of every instruction as syntax: its word lies in its own row of the opcode map (30_encoding
R57), one lemma for each constructor. -/

namespace Sys2Proof.Laws.TableRow

/-- The word of the instruction has the fixed bits of its row, and the row is one of the table's. -/
def Statement (i : Instr) : Prop :=
  encode i &&& i.row.mask = i.row.pattern ∧ i.row ∈ opcodeTable

/-- Membership in the table, by computation. -/
theorem inTable {r : OpRow} (h : opcodeTable.elem r = true) : r ∈ opcodeTable :=
  List.elem_iff.1 h

/-- Fixed bits of the format NNN. -/
theorem encNNN_mask (f : Nibble) (nnn : Addr12) :
    encNNN f nnn &&& 0xF000 = f.setWidth 16 <<< 12 := by
  apply BitVec.eq_of_getLsbD_eq
  intro k hk
  interval_cases k <;> simp [encNNN]

/-- Fixed bits of the format XNN. -/
theorem encXNN_mask (f : Nibble) (x : Reg) (nn : Byte) :
    encXNN f x nn &&& 0xF000 = f.setWidth 16 <<< 12 := by
  apply BitVec.eq_of_getLsbD_eq
  intro k hk
  interval_cases k <;> simp [encXNN]

/-- Fixed bits of the format XYN. -/
theorem encXYN_mask (f : Nibble) (x y : Reg) (n : Nibble) :
    encXYN f x y n &&& 0xF000 = f.setWidth 16 <<< 12 := by
  apply BitVec.eq_of_getLsbD_eq
  intro k hk
  interval_cases k <;> simp [encXYN]

/-- Fixed bits of the format XYS. -/
theorem encXYS_mask (f : Nibble) (x y : Reg) (n : Nibble) :
    encXYN f x y n &&& 0xF00F = f.setWidth 16 <<< 12 ||| n.setWidth 16 := by
  apply BitVec.eq_of_getLsbD_eq
  intro k hk
  interval_cases k <;> simp [encXYN]

/-- Fixed bits of the format XSS. -/
theorem encXSS_mask (f : Nibble) (x : Reg) (ss : Byte) :
    encXSS f x ss &&& 0xF0FF = f.setWidth 16 <<< 12 ||| ss.setWidth 16 := by
  apply BitVec.eq_of_getLsbD_eq
  intro k hk
  interval_cases k <;> simp [encXSS, encXNN]

theorem cls : Statement (.cls) := ⟨by decide, inTable rfl⟩
theorem ret : Statement (.ret) := ⟨by decide, inTable rfl⟩
theorem jp (nnn : Addr12) : Statement (.jp nnn) := ⟨encNNN_mask _ _, inTable rfl⟩
theorem call (nnn : Addr12) : Statement (.call nnn) := ⟨encNNN_mask _ _, inTable rfl⟩
theorem seImm (x : Reg) (nn : Byte) : Statement (.seImm x nn) := ⟨encXNN_mask _ _ _, inTable rfl⟩
theorem sneImm (x : Reg) (nn : Byte) : Statement (.sneImm x nn) := ⟨encXNN_mask _ _ _, inTable rfl⟩
theorem seReg (x y : Reg) : Statement (.seReg x y) := ⟨encXYS_mask _ _ _ _, inTable rfl⟩
theorem ldImm (x : Reg) (nn : Byte) : Statement (.ldImm x nn) := ⟨encXNN_mask _ _ _, inTable rfl⟩
theorem addImm (x : Reg) (nn : Byte) : Statement (.addImm x nn) := ⟨encXNN_mask _ _ _, inTable rfl⟩
theorem ldReg (x y : Reg) : Statement (.ldReg x y) := ⟨encXYS_mask _ _ _ _, inTable rfl⟩
theorem or (x y : Reg) : Statement (.or x y) := ⟨encXYS_mask _ _ _ _, inTable rfl⟩
theorem and (x y : Reg) : Statement (.and x y) := ⟨encXYS_mask _ _ _ _, inTable rfl⟩
theorem xor (x y : Reg) : Statement (.xor x y) := ⟨encXYS_mask _ _ _ _, inTable rfl⟩
theorem addReg (x y : Reg) : Statement (.addReg x y) := ⟨encXYS_mask _ _ _ _, inTable rfl⟩
theorem sub (x y : Reg) : Statement (.sub x y) := ⟨encXYS_mask _ _ _ _, inTable rfl⟩
theorem shr (x y : Reg) : Statement (.shr x y) := ⟨encXYS_mask _ _ _ _, inTable rfl⟩
theorem subn (x y : Reg) : Statement (.subn x y) := ⟨encXYS_mask _ _ _ _, inTable rfl⟩
theorem shl (x y : Reg) : Statement (.shl x y) := ⟨encXYS_mask _ _ _ _, inTable rfl⟩
theorem sneReg (x y : Reg) : Statement (.sneReg x y) := ⟨encXYS_mask _ _ _ _, inTable rfl⟩
theorem ldI (nnn : Addr12) : Statement (.ldI nnn) := ⟨encNNN_mask _ _, inTable rfl⟩
theorem jpV0 (nnn : Addr12) : Statement (.jpV0 nnn) := ⟨encNNN_mask _ _, inTable rfl⟩
theorem rnd (x : Reg) (nn : Byte) : Statement (.rnd x nn) := ⟨encXNN_mask _ _ _, inTable rfl⟩
theorem drw (x y : Reg) (n : Nibble) : Statement (.drw x y n) := ⟨encXYN_mask _ _ _ _, inTable rfl⟩
theorem skp (x : Reg) : Statement (.skp x) := ⟨encXSS_mask _ _ _, inTable rfl⟩
theorem sknp (x : Reg) : Statement (.sknp x) := ⟨encXSS_mask _ _ _, inTable rfl⟩
theorem ldVxDt (x : Reg) : Statement (.ldVxDt x) := ⟨encXSS_mask _ _ _, inTable rfl⟩
theorem ldVxK (x : Reg) : Statement (.ldVxK x) := ⟨encXSS_mask _ _ _, inTable rfl⟩
theorem ldDtVx (x : Reg) : Statement (.ldDtVx x) := ⟨encXSS_mask _ _ _, inTable rfl⟩
theorem ldStVx (x : Reg) : Statement (.ldStVx x) := ⟨encXSS_mask _ _ _, inTable rfl⟩
theorem addI (x : Reg) : Statement (.addI x) := ⟨encXSS_mask _ _ _, inTable rfl⟩
theorem ldF (x : Reg) : Statement (.ldF x) := ⟨encXSS_mask _ _ _, inTable rfl⟩
theorem ldB (x : Reg) : Statement (.ldB x) := ⟨encXSS_mask _ _ _, inTable rfl⟩
theorem dump (x : Reg) : Statement (.dump x) := ⟨encXSS_mask _ _ _, inTable rfl⟩
theorem load (x : Reg) : Statement (.load x) := ⟨encXSS_mask _ _ _, inTable rfl⟩

end Sys2Proof.Laws.TableRow
end

