-- ==== Sys2Proof/Tests/Slice0.lean ====
section
/-! SUPPORT. Tests. Expected values are the spec's own: its vectors (95_test_vectors, named in each comment) and
encodings (30_encoding R54, R57). Witnesses show that the premises of the statements can be met. -/

namespace Sys2Proof.Tests

open Sys2Proof.Machine

/-! ### Helpers -/

/-- The reset state after `f`, with the word `w` at `pc` = 0x200. -/
def at200 (w : Nat) (f : State → State := id) : State := (f State.reset).withFetchWord 16 w

/-- The state a step answers. -/
def after (s : State) : State :=
  match step s with
  | .next t => t
  | .fault _ => State.reset
  | .refused _ => State.reset

/-- The state the execution of one instruction answers. -/
def afterExec (i : Instr) (s : State) : State :=
  match exec i s with
  | .next t => t
  | .fault _ => State.reset
  | .refused _ => State.reset

/-- The step answers a next state in which `p` holds. -/
def stepGives (s : State) (p : State → Bool) : Bool :=
  match step s with
  | .next t => p t
  | .fault _ => false
  | .refused _ => false

/-- Several registers set. -/
def withRegs (l : List (Reg × Byte)) (s : State) : State :=
  l.foldl (fun s c => s.setReg c.1 c.2) s

/-- Bytes stored at an address. -/
def withBytes (a : Nat) (l : List Byte) (s : State) : State := s.setMem (s.mem.writeList s.cfg a l)

/-! ### WellFormed: one ill-formed term for each check (93_implementation_defined U2, U13) -/

theorem test_wellFormed_refuses_vf_targets :
    ([.addReg 15 1, .sub 15 1, .shr 15 1, .subn 15 1, .shl 15 1] : List Instr).map
      Instr.wellFormed = [false, false, false, false, false] := by decide

theorem test_wellFormed_refuses_vf_coordinates :
    ([.drw 15 1 1, .drw 1 15 1] : List Instr).map Instr.wellFormed = [false, false] := by decide

theorem test_wellFormed_accepts :
    ([.addReg 1 15, .sub 14 15, .shr 1 15, .drw 1 2 5, .ldImm 15 7] : List Instr).map
      Instr.wellFormed = [true, true, true, true, true] := by decide

/-! ### Decoding: a word of each row, written from R54 and R57 -/

theorem test_decode_control :
    [0b0000000011101110#16, 0b0001001000110100#16, 0b0010111111111110#16, 0b0011110001111111#16,
      0b0100000000000001#16, 0b0101101010110000#16, 0b1001101010110000#16,
      0b1011001011110000#16].map decode =
    [.instr .ret, .instr (.jp 0x234), .instr (.call 0xFFE), .instr (.seImm 12 0x7F),
      .instr (.sneImm 0 1), .instr (.seReg 10 11), .instr (.sneReg 10 11),
      .instr (.jpV0 0x2F0)] := by decide

theorem test_decode_load_alu :
    [0b0110101000000101#16, 0b0111111011111111#16, 0b1000101010110000#16, 0b1000101010110001#16,
      0b1000101010110010#16, 0b1000101010110011#16, 0b1000101010110100#16].map decode =
    [.instr (.ldImm 10 5), .instr (.addImm 14 0xFF), .instr (.ldReg 10 11), .instr (.or 10 11),
      .instr (.and 10 11), .instr (.xor 10 11), .instr (.addReg 10 11)] := by decide

theorem test_decode_alu_flags :
    [0b1000101010110101#16, 0b1000101010110110#16, 0b1000101010110111#16, 0b1000101010111110#16,
      0b1100001100001111#16].map decode =
    [.instr (.sub 10 11), .instr (.shr 10 11), .instr (.subn 10 11), .instr (.shl 10 11),
      .instr (.rnd 3 0x0F)] := by decide

theorem test_decode_address_memory :
    [0b1010001011110000#16, 0b1111001100011110#16, 0b1111001100101001#16, 0b1111001100110011#16,
      0b1111001101010101#16, 0b1111001101100101#16].map decode =
    [.instr (.ldI 0x2F0), .instr (.addI 3), .instr (.ldF 3), .instr (.ldB 3), .instr (.dump 3),
      .instr (.load 3)] := by decide

theorem test_decode_display_keys_timer :
    [0b0000000011100000#16, 0b1101000100100101#16, 0b1110001110011110#16, 0b1110001110100001#16,
      0b1111001100000111#16, 0b1111001100001010#16, 0b1111001100010101#16,
      0b1111001100011000#16].map decode =
    [.instr .cls, .instr (.drw 1 2 5), .instr (.skp 3), .instr (.sknp 3), .instr (.ldVxDt 3),
      .instr (.ldVxK 3), .instr (.ldDtVx 3), .instr (.ldStVx 3)] := by decide

/-- Section 8 of the vectors and LA36, AM22, DS19: words that are unknown. -/
theorem test_decode_unknown :
    [0x0000#16, 0x00E1#16, 0x5AB1#16, 0x8AB8#16, 0x812F#16, 0x9AB5#16, 0xE39F#16, 0xEA00#16,
      0xF375#16, 0xF300#16].map decode =
    [.unknown .family0, .unknown .family0, .unknown .family5, .unknown .family8,
      .unknown .family8, .unknown .family9, .unknown .familyE, .unknown .familyE,
      .unknown .familyF, .unknown .familyF] := by decide

/-- The same instructions, back to words. -/
theorem test_encode :
    [Instr.sub 5 6, .drw 1 2 5, .ldI 0x2F0, .ldImm 10 5, .skp 3, .shl 10 11].map encode =
    [0x8565#16, 0xD125#16, 0xA2F0#16, 0x6A05#16, 0xE39E#16, 0x8ABE#16] := by decide

theorem test_decodeTableWord :
    decodeTableWord 16 0x6A05 = some (.ldImm 10 5) ∧ decodeTableWord 16 0x5121 = none := by decide

/-- R42: the byte at the lower address is the high byte. -/
theorem test_decodeBytes : decodeBytes 0x6A 0x05 = .instr (.ldImm 10 5) := by decide

theorem test_config_valid : Config.default.Valid := by decide

/-! ### Control flow (vectors CF) -/

/-- CF2. -/
theorem test_ret : stepGives (at200 0x00EE (·.setStack [0xABC, 0x300]))
    (fun t => t.pc == 0xABC && t.stack == [0x300]) = true := by decide

/-- CF3. -/
theorem test_ret_underflow : stepGives (at200 0x00EE)
    (fun t => t.halt == some ⟨.stackUnderflow, 0x200, some 0x00EE⟩ && t.pc == 0x202) = true := by
  decide

/-- CF4. -/
theorem test_jp : (after (at200 0x1ABC)).pc = 0xABC := by decide

/-- CF7. -/
theorem test_call : stepGives (at200 0x2300)
    (fun t => t.pc == 0x300 && t.stack == [0x202]) = true := by decide

/-- CF8. -/
theorem test_call_overflow : stepGives (at200 0x2300 (·.setStack (List.replicate 16 0x202)))
    (fun t => t.halt == some ⟨.stackOverflow, 0x200, some 0x2300⟩ && t.pc == 0x202 &&
      t.stack.length == 16) = true := by decide

/-- CF10, CF11. -/
theorem test_seImm : (after (at200 0x3A05 (·.setReg 10 5))).pc = 0x204 ∧
    (after (at200 0x3A05 (·.setReg 10 6))).pc = 0x202 := by decide

/-- CF12, CF13. -/
theorem test_sneImm : (after (at200 0x4A05 (·.setReg 10 5))).pc = 0x202 ∧
    (after (at200 0x4A05 (·.setReg 10 6))).pc = 0x204 := by decide

/-- CF14, CF15. -/
theorem test_seReg : (after (at200 0x5120 (withRegs [(1, 7), (2, 7)]))).pc = 0x204 ∧
    (after (at200 0x5120 (withRegs [(1, 7), (2, 8)]))).pc = 0x202 := by decide

/-- CF18, CF19. -/
theorem test_sneReg : (after (at200 0x9120 (withRegs [(1, 7), (2, 8)]))).pc = 0x204 ∧
    (after (at200 0x9120 (withRegs [(1, 7), (2, 7)]))).pc = 0x202 := by decide

/-- CF23: not masked to 12 bits. -/
theorem test_jpV0 : (after (at200 0xBFFF (·.setReg 0 0xFF))).pc = 0x10FE := by decide

/-- CF17: an unknown word moves `pc` only, and is reported. -/
theorem test_unknown : stepGives (at200 0x5121 (withRegs [(1, 7), (2, 7)]))
    (fun t => t.pc == 0x202 && t.halt == none) = true ∧
    (at200 0x5121).unknownOp = some 0x5121 := by decide

/-- CF26: a fetch at 0xFFF faults and leaves `pc`. -/
theorem test_fetch_fault : stepGives (State.reset.setPc 0xFFF)
    (fun t => t.halt == some ⟨.fetchOutOfBounds, 0xFFF, none⟩ && t.pc == 0xFFF) = true := by decide

/-- CF25, CF27: the last word of memory is fetched; an odd `pc` is not checked. -/
theorem test_fetch_edges :
    (after ((State.reset.setPc 0xFFE).withFetchWord 16 0x6000)).pc = 0x1000 ∧
    stepGives ((State.reset.setPc 0x201).withFetchWord 16 0x6A05)
      (fun t => t.pc == 0x203 && t.reg 10 == 5) = true := by decide

/-! ### Loads and arithmetic (vectors LA) -/

/-- LA1. -/
theorem test_ldImm : stepGives (at200 0x6A05 (·.setReg 10 0xFF))
    (fun t => t.reg 10 == 5 && t.pc == 0x202) = true := by decide

/-- LA3. -/
theorem test_addImm : stepGives (at200 0x7A01 (withRegs [(10, 0xFF), (15, 0x33)]))
    (fun t => t.reg 10 == 0 && t.reg 15 == 0x33) = true := by decide

/-- LA6. -/
theorem test_ldReg : (after (at200 0x8120 (·.setReg 2 0x77))).reg 1 = 0x77 := by decide

/-- LA7. -/
theorem test_or : stepGives (at200 0x8121 (withRegs [(1, 0xF0), (2, 0x0F), (15, 0x33)]))
    (fun t => t.reg 1 == 0xFF && t.reg 15 == 0x33) = true := by decide

/-- LA8. -/
theorem test_and : (after (at200 0x8122 (withRegs [(1, 0xF0), (2, 0x3C)]))).reg 1 = 0x30 := by
  decide

/-- LA9. -/
theorem test_xor : (after (at200 0x8123 (withRegs [(1, 0xF0), (2, 0x3C)]))).reg 1 = 0xCC := by
  decide

/-- LA11. -/
theorem test_addReg_carry : stepGives (at200 0x8124 (withRegs [(1, 0xFF), (2, 1)]))
    (fun t => t.reg 1 == 0 && t.reg 15 == 1) = true := by decide

/-- LA34, LA40: the old VF is the operand; with X = 15 the flag survives. -/
theorem test_addReg_vf :
    stepGives (at200 0x81F4 (withRegs [(1, 1), (15, 1)])) (fun t => t.reg 1 == 2 && t.reg 15 == 0) =
      true ∧
    (after (at200 0x8F14 (withRegs [(15, 0xFF), (1, 1)]))).reg 15 = 1 := by decide

/-- W9, LA17. -/
theorem test_sub :
    stepGives (at200 0x8565 (withRegs [(5, 0x0A), (6, 5)])) (fun t => t.reg 5 == 5 && t.reg 15 == 1) =
      true ∧
    stepGives (at200 0x8125 (withRegs [(1, 5), (2, 0x0A)]))
      (fun t => t.reg 1 == 0xFB && t.reg 15 == 0) = true := by decide

/-- LA18: equal operands do not borrow. -/
theorem test_sub_equal : stepGives (at200 0x8125 (withRegs [(1, 7), (2, 7)]))
    (fun t => t.reg 1 == 0 && t.reg 15 == 1) = true := by decide

/-- LA21: Y is ignored. -/
theorem test_shr : stepGives (at200 0x8126 (withRegs [(1, 5), (2, 0x77)]))
    (fun t => t.reg 1 == 2 && t.reg 15 == 1 && t.reg 2 == 0x77) = true := by decide

/-- LA27. -/
theorem test_subn : stepGives (at200 0x8127 (withRegs [(1, 0x0A), (2, 5)]))
    (fun t => t.reg 1 == 0xFB && t.reg 15 == 0) = true := by decide

/-- LA29. -/
theorem test_shl : stepGives (at200 0x812E (withRegs [(1, 0x81), (2, 0x77)]))
    (fun t => t.reg 1 == 2 && t.reg 15 == 1 && t.reg 2 == 0x77) = true := by decide

/-- A state with another configuration. -/
def withCfg (f : Config → Config) (s : State) : State := { s with cfg := f s.cfg }

/-- LA45, LA40: the write priority of the configuration decides what a target of 15 ends as. -/
theorem test_vf_write_priority :
    (after (at200 0x8F14 (withRegs [(15, 0xFF), (1, 3)]))).reg 15 = 1 ∧
    (after (at200 0x8F14 fun s => withRegs [(15, 0xFF), (1, 3)]
      (withCfg (fun c => { c with vfWritePriority := .result }) s))).reg 15 = 2 := by decide

/-- R7: other values of the parameters run: a stack of depth 1, a memory of 1024 bytes, a display of 8 columns,
a font base above 0. -/
theorem test_other_configurations :
    (after (at200 0x2300 fun s => (withCfg (fun c => { c with stackDepth := 1 }) s).setStack [0])).halt =
      some ⟨.stackOverflow, 0x200, some 0x2300⟩ ∧
    (after (at200 0xF133 fun s => (withCfg (fun c => { c with memSize := 1024 }) s).setI 0x3FE)).halt =
      some ⟨.dataOutOfBounds 0x400, 0x200, some 0xF133⟩ ∧
    (after (at200 0xD011 fun s => (withCfg (fun c => { c with displayW := 8 }) s).setReg 0 5)).halt =
      some ⟨.drawOutOfBounds 8 0, 0x200, some 0xD011⟩ ∧
    (after (at200 0xF029 fun s => (withCfg (fun c => { c with fontBase := 0x50 }) s).setReg 0 2)).i =
      0x5A := by decide

/-- LA37, with the drawn byte left free. -/
theorem test_rnd : (after (at200 0xCA0F)).reg 10 = Config.rndIn 0 &&& 0x0F := by rfl

/-- LA38: the mask 0 gives 0 whatever is drawn. -/
theorem test_rnd_mask_zero : (after (at200 0xC100 (·.setReg 1 0x55))).reg 1 = 0 :=
  BitVec.and_zero (x := Config.rndIn 0)

/-! ### Address register and memory (vectors AM) -/

/-- AM1. -/
theorem test_ldI : (after (at200 0xA123 (·.setI 0xFFFF))).i = 0x0123 := by decide

/-- AM2, AM3. -/
theorem test_addI :
    stepGives (at200 0xFA1E fun s => withRegs [(10, 1), (15, 0x33)] (s.setI 0x0FFF))
      (fun t => t.i == 0x1000 && t.reg 15 == 0x33 && t.halt == none) = true ∧
    (after (at200 0xFA1E fun s => (s.setI 0xFFFF).setReg 10 2)).i = 1 := by decide

/-- AM5, AM8. -/
theorem test_ldF : (after (at200 0xFA29 (·.setReg 10 0x0A))).i = 0x32 ∧
    (after (at200 0xFA29 (·.setReg 10 0xFF))).i = 0x4FB := by decide

/-- W10. -/
theorem test_ldB : stepGives (at200 0xF533 fun s => (s.setI 0x300).setReg 5 234)
    (fun t => t.readByte 0x300 == 2 && t.readByte 0x301 == 3 && t.readByte 0x302 == 4 &&
      t.i == 0x300) = true := by decide

/-- AM18: nothing is written on the fault. -/
theorem test_ldB_fault : stepGives (at200 0xFA33 fun s => (s.setI 0xFFE).setReg 10 123)
    (fun t => t.halt == some ⟨.dataOutOfBounds 0x1000, 0x200, some 0xFA33⟩ && t.pc == 0x202 &&
      t.mem.find? 0xFFE == none) = true := by decide

/-- AM12. -/
theorem test_dump : stepGives
    (at200 0xF255 fun s => withRegs [(0, 1), (1, 2), (2, 3), (3, 4)] (s.setI 0x300))
    (fun t => t.readByte 0x300 == 1 && t.readByte 0x301 == 2 && t.readByte 0x302 == 3 &&
      t.mem.find? 0x303 == none && t.i == 0x303) = true := by decide

/-- AM19. -/
theorem test_dump_fault : stepGives (at200 0xFF55 (·.setI 0xFF1))
    (fun t => t.halt == some ⟨.dataOutOfBounds 0x1000, 0x200, some 0xFF55⟩ && t.i == 0xFF1 &&
      t.mem.find? 0xFF1 == none) = true := by decide

/-- AM15. -/
theorem test_load : stepGives
    (at200 0xF265 fun s => withRegs [(0, 0x99), (3, 0x99)] (withBytes 0x300 [1, 2, 3, 4] (s.setI 0x300)))
    (fun t => t.reg 0 == 1 && t.reg 1 == 2 && t.reg 2 == 3 && t.reg 3 == 0x99 && t.i == 0x303) =
      true := by decide

/-- AM16, AM20: the font table is read; the byte after the last one does not exist. -/
theorem test_load_edges :
    stepGives (at200 0xF165) (fun t => t.reg 0 == 0xF0 && t.reg 1 == 0x90 && t.i == 2) = true ∧
    (after (at200 0xF065 (·.setI 0x1000))).halt =
      some ⟨.dataOutOfBounds 0x1000, 0x200, some 0xF065⟩ := by decide

/-- Memory in canonical form: storing what the font table holds lists nothing. -/
theorem test_memory_canonical :
    Memory.write [] .default 0 0xF0 = [] ∧
    Memory.write (Memory.write [] .default 0 7) .default 0 0xF0 = [] ∧
    Memory.write (Memory.write [] .default 0x301 7) .default 0x300 0 = [(0x300, 0), (0x301, 7)] := by
  decide

/-! ### Display (vectors DS) -/

/-- DS1. -/
theorem test_cls : stepGives
    (at200 0x00E0 fun s => (s.setPixels (Pixels.set (Pixels.set s.pixels 0 0 true) 63 31 true)).setReg
      15 0x33)
    (fun t => t.pixel 0 0 == false && t.pixel 63 31 == false && t.reg 15 == 0x33) = true := by
  decide

/-- DS2: the glyph 0 at the corner, row by row. -/
theorem test_drw_glyph : stepGives (at200 0xD015)
    (fun t => (List.range 5).map (fun py => (List.range 8).map fun px => t.pixel px py) ==
      [[true, true, true, true, false, false, false, false],
       [true, false, false, true, false, false, false, false],
       [true, false, false, true, false, false, false, false],
       [true, false, false, true, false, false, false, false],
       [true, true, true, true, false, false, false, false]] && t.reg 15 == 0) = true := by decide

/-- DS12: one pixel cleared, one set, a collision. -/
theorem test_drw_collision : stepGives
    (at200 0xD011 fun s => withBytes 0x300 [0xC0]
      ((s.setPixels (Pixels.set s.pixels 0 0 true)).setI 0x300))
    (fun t => t.pixel 0 0 == false && t.pixel 1 0 == true && t.reg 15 == 1) = true := by decide

/-- DS7, DS13: the first offending pixel; the memory check. -/
theorem test_drw_faults :
    (after (at200 0xD015 fun s => (s.setI 0x037).setReg 0 61)).halt =
      some ⟨.drawOutOfBounds 64 1, 0x200, some 0xD015⟩ ∧
    (after (at200 0xD013 (·.setI 0xFFE))).halt =
      some ⟨.dataOutOfBounds 0x1000, 0x200, some 0xD013⟩ := by decide

/-- DS11, DS15: no rows; the coordinate is the old VF. -/
theorem test_drw_corners :
    stepGives (at200 0xD010 fun s => (s.setI 0x1000).setReg 15 1)
      (fun t => t.reg 15 == 0 && t.halt == none) = true ∧
    stepGives (at200 0xDF11 fun s => withBytes 0x300 [0x80] (withRegs [(15, 3), (1, 2)] (s.setI 0x300)))
      (fun t => t.pixel 3 2 && t.reg 15 == 0) = true := by decide

/-! ### Keys and timer (vectors KT) -/

/-- KT1, KT2. -/
theorem test_skp : (after (at200 0xEA9E fun s => (s.setReg 10 3).setKey 3 true)).pc = 0x204 ∧
    (after (at200 0xEA9E fun s => (s.setReg 10 3).setKey 4 true)).pc = 0x202 := by decide

/-- KT3. -/
theorem test_skp_fault : stepGives (at200 0xEA9E (·.setReg 10 16))
    (fun t => t.halt == some ⟨.keyIndexOutOfRange 16, 0x200, some 0xEA9E⟩ && t.pc == 0x202) =
      true := by decide

/-- KT4, KT5. -/
theorem test_sknp : (after (at200 0xEAA1 fun s => (s.setReg 10 3).setKey 3 true)).pc = 0x202 ∧
    (after (at200 0xEAA1 (·.setReg 10 3))).pc = 0x204 := by decide

/-- KT8. -/
theorem test_ldVxDt : (after (at200 0xFA07 (·.setDt 0x2A))).reg 10 = 0x2A := by decide

/-- KT9. -/
theorem test_ldVxK_waits : stepGives (at200 0xFA0A (·.setReg 10 0x77))
    (fun t => t.pc == 0x200 && t.reg 10 == 0x77) = true := by decide

/-- KT10. -/
theorem test_ldVxK_highest : stepGives (at200 0xFA0A fun s => (s.setKey 4 true).setKey 9 true)
    (fun t => t.pc == 0x202 && t.reg 10 == 9) = true := by decide

/-- KT12. -/
theorem test_ldDtVx : (after (at200 0xFA15 (·.setReg 10 0x3C))).dt = 0x3C := by decide

/-- KT13. -/
theorem test_ldStVx : after (at200 0xFA18 (·.setDt 5)) = (at200 0xFA18 (·.setDt 5)).setPc 0x202 ∧
    (at200 0xFA18).unknownOp = none := by decide

/-! ### HOST transactions (vectors KT14 to KT21, RS) -/

/-- KT14, KT16. -/
theorem test_decrementTimer : (decrementTimer (State.reset.setDt 0x3C)).dt = 0x3B ∧
    decrementTimer State.reset = State.reset := by decide

/-- KT17, KT19. -/
theorem test_key_events : (keydown 7 State.reset).key 7 = true ∧
    keyup 7 (keydown 7 State.reset) = State.reset := by decide

/-- KT21: a step while halted changes nothing. -/
theorem test_step_halted :
    step (State.reset.raise .stackUnderflow 0x200 (some 0x00EE)) =
      .next (State.reset.raise .stackUnderflow 0x200 (some 0x00EE)) := by rfl

/-- RS1. -/
theorem test_initialize : (initRequest [0x12, 0x00] State.reset).1 = .ok ∧
    (initRequest [0x12, 0x00] State.reset).2.mem = [(0x200, 0x12), (0x201, 0x00)] ∧
    (initRequest [0x12, 0x00] State.reset).2.readByte 0x04F = 0x80 := by decide

/-- RS4: the empty image builds the reset state. -/
theorem test_initialize_empty : initRequest [] State.reset = (.ok, State.reset) := by decide

/-- RS3: one byte too long. -/
theorem test_initialize_loadError :
    initRequest (List.replicate 3585 0) State.reset = (.loadError, State.reset) :=
  if_pos (by rw [List.length_replicate]; decide)

/-! ### Witnesses: the premises of each statement can be met, clause by clause, at the boundaries -/

/-- ResetHoldsResetValues, ResetMeetsInvariant: the smallest configuration, and the largest. -/
theorem witness_valid :
    ({ Config.default with
        memSize := 82, programStart := 80, displayW := 8, displayH := 1, stackDepth := 1 } : Config).Valid ∧
    ({ Config.default with
        memSize := 65536, programStart := 65534, fontBase := 65454 } : Config).Valid := by decide

/-- InitializeBuildsResetState: the longest image that fits, the shortest that does not; a byte of neither
font nor image on either side of the image. -/
theorem witness_initialize :
    State.reset.cfg.Valid ∧
    (List.replicate 3584 (0 : Byte)).length ≤ State.reset.cfg.memSize - State.reset.cfg.programStart ∧
    State.reset.cfg.memSize - State.reset.cfg.programStart < (List.replicate 3585 (0 : Byte)).length ∧
    (State.reset.cfg.fontBase + State.reset.cfg.fontTable.length ≤ 80 ∧
      80 < State.reset.cfg.programStart) ∧
    State.reset.cfg.programStart + ([0x12, 0x00] : List Byte).length ≤ 0x202 := by
  rw [List.length_replicate, List.length_replicate]; decide

/-- FirstFetchReadsImage: the shortest image with two bytes and the longest that fits. -/
theorem witness_firstFetch :
    State.reset.cfg.Valid ∧
    (0x12#8 :: 0x00#8 :: []).length ≤ State.reset.cfg.memSize - State.reset.cfg.programStart ∧
    (0x12#8 :: 0x00#8 :: List.replicate 3582 0).length ≤ State.reset.cfg.memSize - State.reset.cfg.programStart := by
  rw [List.length_cons, List.length_cons, List.length_cons, List.length_cons, List.length_replicate]
  decide

/-- HaltedOnlyInitializeLeaves, and a transaction that answers a next state. -/
theorem witness_halted :
    (State.reset.raise .stackUnderflow 0x200 (some 0x00EE)).halt =
      some ⟨.stackUnderflow, 0x200, some 0x00EE⟩ ∧
    ∃ t, transact .tickReq (State.reset.raise .stackUnderflow 0x200 (some 0x00EE)) = .next t :=
  ⟨rfl, _, rfl⟩

/-- EncodeOfDecode, with the ignored field not zero. -/
theorem witness_encodeOfDecode : decode 0x8AB6 = .instr (.shr 10 11) := by decide

/-- StepExecutesDecoded, at the last address a word can be fetched from. -/
theorem witness_step :
    let s := (State.reset.setPc 0xFFE).withFetchWord 16 0x6A05
    s.running ∧ s.pc.toNat + 1 < s.cfg.memSize ∧ s.pc.toNat = 0xFFE ∧
    decodeBytes (s.readByte s.pc.toNat) (s.readByte (s.pc.toNat + 1)) = .instr (.ldImm 10 5) := by
  decide

/-- UnknownWordIsPassedOver. -/
theorem witness_unknown :
    let s := at200 0x5121
    s.running ∧ s.pc.toNat + 1 < s.cfg.memSize ∧
    0x5121#16 = wordOfBytes (s.readByte s.pc.toNat) (s.readByte (s.pc.toNat + 1)) ∧
    decode 0x5121 = .unknown .family5 := by decide

/-- FetchOutsideMemoryFaults, at the first address it holds for. -/
theorem witness_fetch_fault :
    (State.reset.setPc 0xFFF).running ∧
    (State.reset.setPc 0xFFF).cfg.memSize ≤ (State.reset.setPc 0xFFF).pc.toNat + 1 := by decide

/-- FaultsArePrecise: a fault of `execute` and a fault of the fetch. -/
theorem witness_faultsArePrecise :
    (∃ t, (at200 0x00EE).running ∧ step (at200 0x00EE) = .next t ∧ t.failed) ∧
    ∃ t, (State.reset.setPc 0xFFF).running ∧ step (State.reset.setPc 0xFFF) = .next t ∧ t.failed :=
  ⟨⟨after (at200 0x00EE), by decide, rfl, by decide⟩,
    ⟨after (State.reset.setPc 0xFFF), by decide, rfl, by decide⟩⟩

/-- FaultsExactlyOnTableConditions, with RET: a running instruction that faults. -/
theorem witness_tableCondition :
    ∃ t, State.reset.running ∧ exec .ret State.reset = .next t ∧ t.failed ∧
      faultCondition .ret State.reset ∧ t.halt = some ⟨.stackUnderflow, 0x1FE, some 0x00EE⟩ :=
  ⟨afterExec .ret State.reset, rfl, rfl, by decide, rfl, by decide⟩

/-- FaultsExactlyOnTableConditions: the condition of every other row of the table, at its boundary, with the
fault latched. -/
theorem witness_tableConditions :
    faultCondition (.call 0x300) (State.reset.setStack (List.replicate 16 0)) ∧
    (afterExec (.call 0x300) (State.reset.setStack (List.replicate 16 0))).halt.map (·.fault) =
      some .stackOverflow ∧
    faultCondition (.ldB 1) (State.reset.setI 0xFFE) ∧
    (afterExec (.ldB 1) (State.reset.setI 0xFFE)).halt.map (·.fault) = some (.dataOutOfBounds 0x1000) ∧
    faultCondition (.dump 15) (State.reset.setI 0xFF1) ∧
    (afterExec (.dump 15) (State.reset.setI 0xFF1)).halt.map (·.fault) =
      some (.dataOutOfBounds 0x1000) ∧
    faultCondition (.load 0) (State.reset.setI 0x1000) ∧
    (afterExec (.load 0) (State.reset.setI 0x1000)).halt.map (·.fault) =
      some (.dataOutOfBounds 0x1000) ∧
    faultCondition (.skp 1) (State.reset.setReg 1 16) ∧
    (afterExec (.skp 1) (State.reset.setReg 1 16)).halt.map (·.fault) =
      some (.keyIndexOutOfRange 16) ∧
    faultCondition (.sknp 1) (State.reset.setReg 1 16) ∧
    (afterExec (.sknp 1) (State.reset.setReg 1 16)).halt.map (·.fault) =
      some (.keyIndexOutOfRange 16) := by
  unfold faultCondition; decide

/-- FaultsExactlyOnTableConditions: both conditions of DRW, and an instruction that does not fault. -/
theorem witness_tableConditions_drw :
    faultCondition (.drw 0 1 3) (State.reset.setI 0xFFE) ∧
    faultCondition (.drw 0 1 1) (State.reset.setReg 0 64) ∧
    (afterExec (.drw 0 1 1) (State.reset.setReg 0 64)).halt.map (·.fault) =
      some (.drawOutOfBounds 64 0) ∧
    ¬faultCondition (.load 15) (State.reset.setI 0xFF0) ∧
    (afterExec (.ldB 1) (State.reset.setI 0xFFD)).running :=
  ⟨.inl (by decide), .inr ⟨0, 0, by decide⟩, by decide, by unfold faultCondition; decide, by decide⟩

/-- FaultCodesOfTable: a latch for each of the six faults. -/
theorem witness_faultCodes :
    ([.fetchOutOfBounds, .dataOutOfBounds 0x1000, .stackUnderflow, .stackOverflow,
      .drawOutOfBounds 64 0, .keyIndexOutOfRange 16] : List Fault).map
      (fun f => (State.reset.raise f 0x200 none).faultCode.toNat) = [1, 2, 3, 4, 5, 6] := by decide

/-- StepKeepsInvariant, EachUnitHasItsWriters and HostTransactionsKeepInvariant. -/
theorem witness_invariant :
    (∃ t, (at200 0x6A05).Inv ∧ step (at200 0x6A05) = .next t) ∧
    (∃ t, exec (.ldImm 10 5) State.reset = .next t) ∧
    ∃ t, Transaction.tickReq ≠ .stepReq ∧ State.reset.Inv ∧
      transact .tickReq State.reset = .next t :=
  ⟨⟨after (at200 0x6A05), ⟨by decide, by decide, by decide, by decide, by decide, trivial⟩, rfl⟩, ⟨_, rfl⟩,
    ⟨_, by decide, ⟨by decide, by decide, by decide, by decide, by decide, trivial⟩, rfl⟩⟩

/-- The invariant also holds after a fault: the latch names the instruction that raised it. -/
theorem witness_invariant_failed : (after (at200 0x00EE)).Inv :=
  ⟨by decide, by decide, by decide, by decide, by decide, by decide, .ret, rfl, rfl⟩

/-- IdleLoopIsAFixedPoint (RS6). -/
theorem witness_idleLoop :
    (at200 0x1200).running ∧ (at200 0x1200).pc = (0x200#12).setWidth 16 ∧
    (0x200#12).toNat + 1 < (at200 0x1200).cfg.memSize ∧
    (at200 0x1200).wordAtPc = 0x1000 + (0x200#12).setWidth 16 := by decide

/-- StoreIsSeenByNextFetch, with the fewest registers and with the most that fit. -/
theorem witness_storeIsSeen :
    (∃ t, let s := State.reset.setI 0x200
      s.mem.wf s.cfg ∧ 1 ≤ (1 : Reg).val ∧ s.i = s.pc ∧ s.effAddr 1 < s.cfg.memSize ∧
      exec (.dump 1) s = .next t) ∧
    ∃ t, let s := (State.reset.setI 0xFF0).setPc 0xFF0
      s.mem.wf s.cfg ∧ 1 ≤ (15 : Reg).val ∧ s.i = s.pc ∧ s.effAddr 15 < s.cfg.memSize ∧
      exec (.dump 15) s = .next t :=
  ⟨⟨afterExec (.dump 1) (State.reset.setI 0x200), by decide, by decide, rfl, by decide, rfl⟩,
    ⟨afterExec (.dump 15) ((State.reset.setI 0xFF0).setPc 0xFF0), by decide, by decide, rfl,
      by decide, rfl⟩⟩

/-- RetPopsIntoPc, clause by clause. -/
theorem witness_ret :
    (State.reset.setStack [0xABC]).stack = 0xABC :: [] ∧ State.reset.stack = [] := by decide

/-- CallPushesReturnAddress: one place left, and none. -/
theorem witness_call :
    (State.reset.setStack (List.replicate 15 0x202)).stack.length < State.reset.cfg.stackDepth ∧
    (State.reset.setStack (List.replicate 16 0x202)).stack.length = State.reset.cfg.stackDepth := by decide

/-- CallThenRetReturns: a CALL at 0x200 to 0x300, where a RET stands. -/
theorem witness_callThenRet :
    let s := at200 0x2300 (withBytes 0x300 [0x00, 0xEE])
    let t := after s
    s.running ∧ s.pc.toNat + 1 < s.cfg.memSize ∧ decode s.wordAtPc = .instr (.call 0x300) ∧
    t.running ∧ t.pc.toNat + 1 < t.cfg.memSize ∧ decode t.wordAtPc = .instr .ret := by decide

/-- The step of `witness_callThenRet`. -/
theorem witness_callThenRet_step :
    step (at200 0x2300 (withBytes 0x300 [0x00, 0xEE])) =
      .next (after (at200 0x2300 (withBytes 0x300 [0x00, 0xEE]))) := by rfl

/-- The arithmetic statements and WritePriorityMattersOnlyForVf: targets other than VF, and both priorities. -/
theorem witness_target_not_vf :
    (0 : Reg) ≠ vf ∧ (14 : Reg) ≠ vf ∧ State.reset.cfg.vfWritePriority = .flag ∧
    (withCfg (fun c => { c with vfWritePriority := .result }) State.reset).cfg.vfWritePriority =
      .result := by decide

/-- LdDtWritesTimer and LdVxDtReadsTimer: the width of the timer and its greatest value. -/
theorem witness_timer :
    8 ≤ State.reset.cfg.timerBits ∧ (State.reset.setDt 255).dt ≤ 255 := by decide

/-- ConfigurationIsConstant: an execution, a step, a schedule. -/
theorem witness_configuration :
    ∃ t u v, exec (.ldImm 10 5) State.reset = .next t ∧ step (at200 0x6A05) = .next u ∧
      runSchedule [.tickReq, .stepReq, .keyReq 3 true] (at200 0x6A05) = .next v :=
  ⟨_, after (at200 0x6A05), keydown 3 (after (at200 0x6A05)), rfl, rfl, rfl⟩

/-- RndIsMasked: a mask with a clear bit. -/
theorem witness_rnd_mask : (0x0F#8).getLsbD 7 = false := by decide

/-- LdBStoresDecimalDigits: the last `I` at which three bytes exist, and the next. -/
theorem witness_ldB :
    (State.reset.setI 0xFFD).mem.wf State.reset.cfg ∧ (State.reset.setI 0xFFD).effAddr 2 < State.reset.cfg.memSize ∧
    State.reset.cfg.memSize ≤ (State.reset.setI 0xFFE).effAddr 2 := by decide

/-- DumpStoresRegisters and LoadFillsRegisters: the same boundary, for one register and for sixteen. -/
theorem witness_dump_load :
    (State.reset.setI 0xFF0).mem.wf State.reset.cfg ∧
    (State.reset.setI 0xFF0).effAddr (15 : Reg).val < State.reset.cfg.memSize ∧
    State.reset.cfg.memSize ≤ (State.reset.setI 0xFF1).effAddr (15 : Reg).val ∧
    (State.reset.setI 0xFFF).effAddr (0 : Reg).val < State.reset.cfg.memSize ∧
    State.reset.cfg.memSize ≤ (State.reset.setI 0x1000).effAddr (0 : Reg).val := by decide

/-- DumpThenLoadRestores, up to the last byte of memory; the registers in between are not those of the dump. -/
theorem witness_dumpThenLoad :
    ∃ t u : State, let s := (State.reset.setI 0xFFC).setReg 3 7
      s.mem.wf s.cfg ∧ s.effAddr (3 : Reg).val < s.cfg.memSize ∧ exec (.dump 3) s = .next t ∧
      u.cfg = t.cfg ∧ u.mem = t.mem ∧ u.i = s.i ∧ u.reg 3 = 9 :=
  ⟨afterExec (.dump 3) ((State.reset.setI 0xFFC).setReg 3 7),
    ((afterExec (.dump 3) ((State.reset.setI 0xFFC).setReg 3 7)).setI 0xFFC).setReg 3 9,
    by decide, by decide, rfl, by decide, by decide, by decide, by decide⟩

/-- A state with the one sprite byte 0xC0 at 0x300 and a corner given by registers 0 and 1. -/
def withSprite (px py : Byte) : State :=
  withRegs [(0, px), (1, py)] (withBytes 0x300 [0xC0] (State.reset.setI 0x300))

/-- DrwTogglesSpritePixels: the right-most and lowest place at which both bits land; and N = 0 with `I`
outside memory. -/
theorem witness_drw :
    ((withSprite 62 31).rowsInMemory 1 ∧ ∀ r c, ¬(withSprite 62 31).offending 0 1 1 r c) ∧
    ((State.reset.setI 0x1000).rowsInMemory 0 ∧
      ∀ r c, ¬(State.reset.setI 0x1000).offending 0 1 0 r c) := by
  refine ⟨⟨by decide, ?_⟩, by decide, fun r c h => absurd h.1 (Nat.not_lt_zero r)⟩
  rintro r c ⟨hr, hc, h⟩
  have hr : r < 1 := hr
  obtain rfl : r = 0 := by omega
  revert h; revert c; decide

/-- DrwTogglesSpritePixels: a covered pixel and one that is not. -/
theorem witness_drw_covers :
    (withSprite 62 31).covers 0 1 1 63 31 ∧ ¬(withSprite 62 31).covers 0 1 1 0 0 :=
  ⟨⟨0, 1, by decide⟩, fun ⟨_, _, _, _, _, h, _⟩ => by
    have e : ((withSprite 62 31).reg 0).toNat = 62 := by decide
    omega⟩

/-- DrwTogglesSpritePixels: a covered pixel that is set before, so that VF is 1; with none set VF is 0. -/
theorem witness_drw_collision :
    let s := (withSprite 62 31).setPixels [(63, 31)]
    s.covers 0 1 1 63 31 ∧ s.pixel 63 31 = true ∧ s.rowsInMemory 1 ∧
    (∀ r c, ¬s.offending 0 1 1 r c) ∧ (afterExec (.drw 0 1 1) s).reg vf = 1 ∧
    (afterExec (.drw 0 1 1) (withSprite 62 31)).reg vf = 0 := by
  refine ⟨⟨0, 1, by decide⟩, by decide, by decide, ?_, by decide, by decide⟩
  rintro r c ⟨hr, hc, h⟩
  have hr : r < 1 := hr
  obtain rfl : r = 0 := by omega
  revert h; revert c; decide

/-- DrwTogglesSpritePixels: no covered pixel is set on a clear buffer. -/
theorem witness_drw_clear (px py : Nat) : (withSprite 62 31).pixel px py = false := rfl

/-- DrwFaultsBeforeDrawing: a row outside memory. -/
theorem witness_drw_dataFault : ¬(State.reset.setI 0xFFE).rowsInMemory 3 := by decide

/-- DrwFaultsBeforeDrawing: the first bit outside the screen, one column to the right of `witness_drw`. -/
theorem witness_drw_drawFault :
    (withSprite 63 31).rowsInMemory 1 ∧ (withSprite 63 31).offending 0 1 1 0 1 ∧
    ∀ r c, (withSprite 63 31).offending 0 1 1 r c → 0 < r ∨ 0 = r ∧ 1 ≤ c := by
  refine ⟨by decide, by decide, ?_⟩
  rintro r c ⟨hr, hc, h⟩
  have hr : r < 1 := hr
  obtain rfl : r = 0 := by omega
  revert h; revert c; decide

/-- DrawingTwiceErases. -/
theorem witness_drawingTwice :
    ∃ t v, (withSprite 62 31).running ∧ exec (.drw 0 1 1) (withSprite 62 31) = .next t ∧ t.running ∧
      t.cfg = (withSprite 62 31).cfg ∧ t.mem = (withSprite 62 31).mem ∧ t.i = (withSprite 62 31).i ∧
      t.reg 0 = (withSprite 62 31).reg 0 ∧ t.reg 1 = (withSprite 62 31).reg 1 ∧
      exec (.drw 0 1 1) t = .next v :=
  ⟨afterExec (.drw 0 1 1) (withSprite 62 31),
    afterExec (.drw 0 1 1) (afterExec (.drw 0 1 1) (withSprite 62 31)),
    rfl, rfl, by decide, rfl, rfl, rfl, by decide, by decide, rfl⟩

/-- KeySkips: the last key and the first value that names none. -/
theorem witness_keySkips :
    ((State.reset.setReg 1 15).reg 1).toNat = (15 : Key).val ∧
    ((State.reset.setReg 1 16).reg 1).toNat > 15 := by decide

/-- KeyWaitTakesHighestKey: a key with none above it, the highest and the lowest; and no key. -/
theorem witness_keyWait :
    ((State.reset.setKey 0 true).key 0 = true ∧ ∀ j, 0 < j → (State.reset.setKey 0 true).key j = false) ∧
    ((State.reset.setKey 15 true).key 15 = true ∧
      ∀ j, 15 < j → (State.reset.setKey 15 true).key j = false) ∧
    ∀ j, State.reset.key j = false := by decide

/-- KeyWaitWithoutKeyIsStill. -/
theorem witness_keyWait_still :
    (at200 0xF30A).running ∧ (at200 0xF30A).pc.toNat + 1 < State.reset.cfg.memSize ∧
    decode (at200 0xF30A).wordAtPc = .instr (.ldVxK 3) ∧ ∀ j, (at200 0xF30A).key j = false := by
  decide

/-- LdStIsInert. -/
theorem witness_ldSt :
    (at200 0xF318).running ∧ (at200 0xF318).pc.toNat + 1 < State.reset.cfg.memSize ∧
    decode (at200 0xF318).wordAtPc = .instr (.ldStVx 3) := by decide

/-- DecoderMatchesOpcodeMap: a row and a word of it. -/
theorem witness_opcodeMap :
    (Instr.shr 10 11).row ∈ opcodeTable ∧
    0x8AB6#16 &&& (Instr.shr 10 11).row.mask = (Instr.shr 10 11).row.pattern := by decide

end Sys2Proof.Tests
end

section
/-! PROOFS. 00_scope: the configuration (R7, R8) and the step as fetch, then execute (R9). -/

namespace Sys2Proof.Machine

/-! ### Answers that are a next state with a property -/

/-- The answer is a next state, and that state has the property `P`. -/
def Answers (P : State → Prop) (a : Answer) : Prop := ∃ t, a = .next t ∧ P t

@[simp] theorem answers_next {P : State → Prop} {t : State} : Answers P (.next t) ↔ P t := by
  simp [Answers]

theorem Answers.of_next {P : State → Prop} {a : Answer} {t : State} (h : Answers P a)
    (ht : a = .next t) : P t :=
  answers_next.1 (ht ▸ h)

theorem answers_checkData {P : State → Prop} {kMax : Nat} {i : Instr} {s : State} {body : Answer}
    (hfault : s.cfg.memSize ≤ s.effAddr kMax →
      Answers P (raiseExec (.dataOutOfBounds (s.effAddr kMax)) i s))
    (hbody : s.effAddr kMax < s.cfg.memSize → Answers P body) :
    Answers P (checkData kMax i s body) := by
  rcases Nat.lt_or_ge (s.effAddr kMax) s.cfg.memSize with h | h
  · rw [checkData_of_lt h]; exact hbody h
  · rw [checkData_of_ge h]; exact hfault h

theorem answers_withKey {P : State → Prop} {x : Reg} {i : Instr} {s : State} {body : Key → Answer}
    (hfault : ¬ (s.reg x).toNat < 16 → Answers P (raiseExec (.keyIndexOutOfRange (s.reg x)) i s))
    (hbody : ∀ h : (s.reg x).toNat < 16, Answers P (body ⟨(s.reg x).toNat, h⟩)) :
    Answers P (withKey x i s body) := by
  by_cases h : (s.reg x).toNat < 16
  · rw [withKey_of_lt h]; exact hbody h
  · rw [withKey_of_ge h]; exact hfault h

theorem answers_drawSprite {P : State → Prop} {targets : List (Nat × Nat)} {i : Instr} {s : State}
    (hfault : ∀ t, (targets.find? fun t => !decide (onScreen s.cfg t.1 t.2)) = some t →
      Answers P (raiseExec (.drawOutOfBounds t.1 t.2) i s))
    (hdraw : (targets.find? fun t => !decide (onScreen s.cfg t.1 t.2)) = none →
      P ((s.setPixels (drawTargets s.pixels targets).1).setReg vf
        (flagByte (drawTargets s.pixels targets).2))) :
    Answers P (drawSprite targets i s) := by
  cases h : targets.find? fun t => !decide (onScreen s.cfg t.1 t.2) with
  | some t => rw [drawSprite_of_offScreen h]; exact hfault t h
  | none => rw [drawSprite_of_onScreen h]; exact answers_next.2 (hdraw h)

/-! ### The configuration stays (R7): the shared operations -/

/-- The answer is a next state under the configuration of `s`. -/
abbrev AnswersSameCfg (s : State) (a : Answer) : Prop := Answers (fun t => t.cfg = s.cfg) a

theorem raiseExec_sameCfg (f : Fault) (i : Instr) (s : State) :
    AnswersSameCfg s (raiseExec f i s) :=
  ⟨_, raiseExec_eq f i s, s.raise_cfg _ _ _⟩

theorem skipIf_sameCfg (c : Bool) (s : State) : AnswersSameCfg s (skipIf c s) :=
  ⟨_, skipIf_eq c s, s.setPc_cfg _⟩

@[simp] theorem writeResultAndFlag_cfg (p : VfPriority) (x : Reg) (r c : Byte) (s : State) :
    (writeResultAndFlag p x r c s).cfg = s.cfg := by
  obtain ⟨v, hv⟩ := writeResultAndFlag_eq p x r c s
  rw [hv, State.setRegs_cfg]

theorem nextWithFlag_sameCfg (x : Reg) (r c : Byte) (s : State) :
    AnswersSameCfg s (nextWithFlag x r c s) :=
  ⟨_, nextWithFlag_eq x r c s, writeResultAndFlag_cfg _ x r c s⟩

theorem drawSprite_sameCfg (targets : List (Nat × Nat)) (i : Instr) (s : State) :
    AnswersSameCfg s (drawSprite targets i s) :=
  answers_drawSprite (fun _ _ => raiseExec_sameCfg _ i s) fun _ => by simp

theorem checkData_sameCfg {kMax : Nat} {i : Instr} {s : State} {body : Answer}
    (h : AnswersSameCfg s body) : AnswersSameCfg s (checkData kMax i s body) :=
  answers_checkData (fun _ => raiseExec_sameCfg _ i s) fun _ => h

theorem withKey_sameCfg {x : Reg} {i : Instr} {s : State} {body : Key → Answer}
    (h : ∀ k, AnswersSameCfg s (body k)) : AnswersSameCfg s (withKey x i s body) :=
  answers_withKey (fun _ => raiseExec_sameCfg _ i s) fun _ => h _

/-! ### The configuration stays (R7): instructions that branch or loop -/

theorem execRet_sameCfg (s : State) : AnswersSameCfg s (execRet s) := by
  unfold execRet
  split
  · exact raiseExec_sameCfg _ _ s
  · simp

theorem execCall_sameCfg (nnn : Addr12) (s : State) : AnswersSameCfg s (execCall nnn s) := by
  unfold execCall
  split
  · exact raiseExec_sameCfg _ _ s
  · simp

theorem execDrw_sameCfg (x y : Reg) (n : Nibble) (s : State) :
    AnswersSameCfg s (execDrw x y n s) := by
  unfold execDrw
  split
  · exact drawSprite_sameCfg _ _ s
  · exact checkData_sameCfg (drawSprite_sameCfg _ _ s)

theorem execLdVxK_sameCfg (x : Reg) (s : State) : AnswersSameCfg s (execLdVxK x s) := by
  unfold execLdVxK
  split <;> simp

theorem execDump_sameCfg (x : Reg) (s : State) : AnswersSameCfg s (execDump x s) :=
  checkData_sameCfg (by rw [foldl_writeByte]; simp)

theorem execLoad_sameCfg (x : Reg) (s : State) : AnswersSameCfg s (execLoad x s) := by
  obtain ⟨v, hv, -⟩ := foldl_setReg (regsUpTo x) (fun k => s.readByte (s.effAddr k.val)) s
  exact checkData_sameCfg (by rw [hv]; simp)

/-! ### The configuration stays (R7): instructions, steps, transactions -/

/-- Every instruction answers a next state under the same configuration: the rows that check, branch or loop by
their lemma, the others because they write one named field. -/
theorem exec_sameCfg (i : Instr) (s : State) : AnswersSameCfg s (exec i s) := by
  cases i with
  | ret => exact execRet_sameCfg s
  | call nnn => exact execCall_sameCfg nnn s
  | seImm | sneImm | seReg | sneReg => exact skipIf_sameCfg _ s
  | addReg | sub | shr | subn | shl => exact nextWithFlag_sameCfg _ _ _ s
  | drw x y n => exact execDrw_sameCfg x y n s
  | skp => exact withKey_sameCfg fun k => skipIf_sameCfg (s.key k) s
  | sknp => exact withKey_sameCfg fun k => skipIf_sameCfg (!s.key k) s
  | ldVxK x => exact execLdVxK_sameCfg x s
  | ldB => exact checkData_sameCfg (answers_next.2 (s.setMem_cfg _))
  | dump x => exact execDump_sameCfg x s
  | load x => exact execLoad_sameCfg x s
  | cls | jp | ldImm | addImm | ldReg | or | and | xor | ldI | jpV0 | rnd | ldVxDt | ldDtVx | ldStVx
  | addI | ldF => exact ⟨_, rfl, rfl⟩

theorem step_sameCfg (s : State) : AnswersSameCfg s (step s) := by
  rcases step_cases s with ⟨-, h⟩ | ⟨-, -, h⟩ | ⟨-, -, -, h⟩ | ⟨-, -, i, -, h⟩
  · exact ⟨s, h, rfl⟩
  · exact ⟨_, h, s.raise_cfg _ _ _⟩
  · exact ⟨_, h, s.advancePc_cfg⟩
  · rw [h]; exact exec_sameCfg i s.advancePc

@[simp] theorem State.loadImage_cfg (s : State) (image : List Byte) : (s.loadImage image).cfg = s.cfg := rfl

@[simp] theorem decrementTimer_cfg (s : State) : (decrementTimer s).cfg = s.cfg := by
  unfold decrementTimer
  split <;> simp

theorem transact_cfg {x : Transaction} {s t : State} (h : transact x s = .next t) :
    t.cfg = s.cfg := by
  rcases transact_cases h with ⟨-, h⟩ | ⟨image, -, rfl | ⟨rfl, -⟩⟩ | ⟨-, rfl⟩ | ⟨k, b, -, rfl⟩
  · exact (step_sameCfg s).of_next h
  · rfl
  · exact s.loadImage_cfg image
  · exact decrementTimer_cfg s
  · exact s.setKey_cfg k b

/-- A schedule answers a next state exactly when its first transaction and the rest of it do. -/
theorem runSchedule_cons_eq_next {x : Transaction} {l : List Transaction} {s t : State} :
    runSchedule (x :: l) s = .next t ↔ ∃ u, transact x s = .next u ∧ runSchedule l u = .next t := by
  rw [runSchedule]
  cases transact x s <;> simp

/-- What every transaction keeps, every schedule keeps. -/
theorem runSchedule_keeps {P : State → Prop}
    (hstep : ∀ x s t, transact x s = .next t → P s → P t) {l : List Transaction} {s t : State}
    (h : runSchedule l s = .next t) (hs : P s) : P t := by
  induction l generalizing s with
  | nil => cases h; exact hs
  | cons x l ih =>
    obtain ⟨u, hu, hl⟩ := runSchedule_cons_eq_next.1 h
    exact ih hl (hstep x s u hu hs)

/-- Settles O2: each level rests on the one below, instructions, then the step, then the transactions. -/
theorem configurationIsConstant : Obligations.ConfigurationIsConstant :=
  ⟨fun i s _ h => (exec_sameCfg i s).of_next h,
    fun s _ h => (step_sameCfg s).of_next h,
    fun _ s _ h => runSchedule_keeps (P := fun u => u.cfg = s.cfg)
      (fun _ _ _ hu hv => (transact_cfg hu).trans hv) h rfl⟩

/-! ### Reset and the running step -/

/-- The column of defaults meets the constraints of R8. -/
theorem default_valid : Config.default.Valid := by decide

/-- Settles O1: every number is read off the definition of the default configuration. -/
theorem resetConfigurationIsDefault : Obligations.ResetConfigurationIsDefault :=
  ⟨State.resetOf_cfg _, default_valid, rfl, rfl, rfl, rfl, rfl, rfl, rfl, rfl⟩

/-- Of the four cases of a step, the one of a running machine whose word at `pc` is an instruction. -/
theorem step_of_instr {s : State} {i : Instr} (hs : s.running)
    (hpc : s.pc.toNat + 1 < s.cfg.memSize) (hd : decode s.wordAtPc = .instr i) :
    step s = exec i s.advancePc := by
  rcases step_cases s with ⟨hf, -⟩ | ⟨-, hge, -⟩ | ⟨-, -, ⟨u, hu⟩, -⟩ | ⟨-, -, j, hj, h⟩
  · exact absurd hs hf
  · omega
  · rw [hd] at hu; cases hu
  · rw [hd] at hj; cases hj; exact h

/-- Settles O14: the word of the two bytes at `pc` is the fetched word, and `pc + 2` the advance of the fetch. -/
theorem stepExecutesDecoded : Obligations.StepExecutesDecoded :=
  fun _ _ hs hpc hd => step_of_instr hs hpc hd

end Sys2Proof.Machine
end

section
/-! PROOFS. 10_state: the invariant of every reachable state (R36), the values after reset (R34), and which
instruction writes which part of the state (R18 to R28). -/

namespace Sys2Proof.Machine

/-! ### Instructions that branch or loop: everything each can answer -/

theorem answers_execRet {P : State → Prop} {s : State}
    (hempty : s.stack = [] → Answers P (raiseExec .stackUnderflow .ret s))
    (hpop : ∀ a rest, s.stack = a :: rest → P ((s.setStack rest).setPc a)) :
    Answers P (execRet s) := by
  unfold execRet
  split
  · next h => exact hempty h
  · next a rest h => exact answers_next.2 (hpop a rest h)

theorem answers_execCall {P : State → Prop} {nnn : Addr12} {s : State}
    (hfull : s.cfg.stackDepth ≤ s.stack.length → Answers P (raiseExec .stackOverflow (.call nnn) s))
    (hpush : s.stack.length < s.cfg.stackDepth → P ((s.push s.pc).setPc (zextAddr nnn))) :
    Answers P (execCall nnn s) := by
  unfold execCall
  split
  · next h => exact hfull h
  · next h => exact answers_next.2 (hpush (by omega))

theorem answers_execLdVxK {P : State → Prop} {x : Reg} {s : State}
    (hkey : ∀ k, s.scanKeys = some k → P (s.setReg x (BitVec.ofNat 8 k.val)))
    (hnone : s.scanKeys = none → P s.rewindPc) : Answers P (execLdVxK x s) := by
  unfold execLdVxK
  split
  · next k h => exact answers_next.2 (hkey k h)
  · next h => exact answers_next.2 (hnone h)

/-- With rows to draw, DRW checks their addresses first; with none, it goes to the pixel check (R99, R115). -/
theorem answers_execDrw {P : State → Prop} {x y : Reg} {n : Nibble} {s : State}
    (hfault : ¬ s.rowsInMemory n →
      Answers P (raiseExec (.dataOutOfBounds (s.effAddr (n.toNat - 1))) (.drw x y n) s))
    (hdraw : s.rowsInMemory n → Answers P (drawSprite
      (spriteTargets (s.reg x).toNat (s.reg y).toNat (s.spriteRows n.toNat)) (.drw x y n) s)) :
    Answers P (execDrw x y n s) := by
  unfold execDrw
  split
  · next h => exact hdraw (.inl h)
  · next h =>
    refine answers_checkData (fun hge => hfault fun hin => ?_) fun hlt => hdraw (.inr hlt)
    rcases hin with hzero | hlt
    · exact h hzero
    · omega

theorem answers_execDump {P : State → Prop} {x : Reg} {s : State}
    (hfault : Answers P (raiseExec (.dataOutOfBounds (s.effAddr x.val)) (.dump x) s))
    (hstore : s.effAddr x.val < s.cfg.memSize → P ((s.setMem ((regsUpTo x).foldl
      (fun m k => m.write s.cfg (s.effAddr k.val) (s.reg k)) s.mem)).bumpI x)) :
    Answers P (execDump x s) :=
  answers_checkData (fun _ => hfault) fun h => by
    rw [foldl_writeByte, answers_next]
    exact hstore h

theorem answers_execLoad {P : State → Prop} {x : Reg} {s : State}
    (hfault : Answers P (raiseExec (.dataOutOfBounds (s.effAddr x.val)) (.load x) s))
    (hfill : ∀ v, (∀ r, (s.setRegs v).reg r =
        if r ∈ regsUpTo x then s.readByte (s.effAddr r.val) else s.reg r) →
      P ((s.setRegs v).bumpI x)) :
    Answers P (execLoad x s) := by
  obtain ⟨v, hv, hr⟩ := foldl_setReg (regsUpTo x) (fun k => s.readByte (s.effAddr k.val)) s
  exact answers_checkData (fun _ => hfault) fun _ => by
    rw [hv, answers_next]
    exact hfill v hr

/-! ### The invariant (R36): one field written -/

/-- While nothing is latched there is nothing to be coherent with. -/
theorem State.running.latchCoherent {s : State} (hs : s.running) : s.latchCoherent := by
  rw [State.latchCoherent, hs]
  trivial

section
variable {s : State}

theorem State.Inv.setRegs (h : s.Inv) (v : Vector Byte 16) : (s.setRegs v).Inv := { h with }

theorem State.Inv.setI (h : s.Inv) (a : Addr) : (s.setI a).Inv := { h with }

theorem State.Inv.setKeys (h : s.Inv) (k : Vector Bool 16) : (s.setKeys k).Inv := { h with }

theorem State.Inv.setDraws (h : s.Inv) (n : Nat) : (s.setDraws n).Inv := { h with }

theorem State.Inv.setPc (h : s.Inv) (hs : s.running) (a : Addr) : (s.setPc a).Inv :=
  { h with latch := State.running.latchCoherent (s := s.setPc a) hs }

theorem State.Inv.setStack (h : s.Inv) {l : List Addr} (hl : l.length ≤ s.cfg.stackDepth) :
    (s.setStack l).Inv := { h with stack := hl }

theorem State.Inv.setDt (h : s.Inv) {v : Nat} (hv : v ≤ 255) : (s.setDt v).Inv :=
  { h with timer := hv }

theorem State.Inv.setPixels (h : s.Inv) {p : Pixels} (hp : p.wf s.cfg) : (s.setPixels p).Inv :=
  { h with pixels := hp }

theorem State.Inv.setMem (h : s.Inv) {m : Memory} (hm : m.wf s.cfg) : (s.setMem m).Inv :=
  { h with mem := hm }

/-- A fetch fault where no two bytes exist latches the unchanged `pc` (R109, R112). -/
theorem State.Inv.raiseFetch (h : s.Inv) (hpc : s.cfg.memSize ≤ s.pc.toNat + 1) :
    (s.raise .fetchOutOfBounds s.pc none).Inv :=
  { h with latch := ⟨rfl, rfl, hpc⟩ }

/-- A fault of `execute` latches the `pc` two bytes back and the word of an instruction that can raise it
(R108, R112). -/
theorem raiseExec_keeps_inv (h : s.Inv) {f : Fault} {i : Instr} (hf : f.raisedBy i = true) :
    Answers State.Inv (raiseExec f i s) := by
  have hpc : s.pc = s.pc - 2 + 2 := by simp
  refine ⟨_, raiseExec_eq f i s, { h with latch := ?_ }⟩
  cases f with
  | fetchOutOfBounds => simp [Fault.raisedBy] at hf
  | dataOutOfBounds | stackUnderflow | stackOverflow | drawOutOfBounds | keyIndexOutOfRange =>
    exact ⟨hpc, i, rfl, hf⟩

/-! ### The invariant (R36): shared operations -/

theorem skipIf_keeps_inv (h : s.Inv) (hs : s.running) (c : Bool) :
    Answers State.Inv (skipIf c s) :=
  ⟨_, skipIf_eq c s, h.setPc hs _⟩

theorem withKey_skipIf_keeps_inv (h : s.Inv) (hs : s.running) {x : Reg} {i : Instr}
    (hi : (Fault.keyIndexOutOfRange (s.reg x)).raisedBy i = true) (c : Key → Bool) :
    Answers State.Inv (withKey x i s fun k => skipIf (c k) s) :=
  answers_withKey (fun _ => raiseExec_keeps_inv h hi) fun _ => skipIf_keeps_inv h hs _

theorem nextWithFlag_keeps_inv (h : s.Inv) (x : Reg) (r c : Byte) :
    Answers State.Inv (nextWithFlag x r c s) := by
  obtain ⟨v, hv⟩ := writeResultAndFlag_eq s.cfg.vfWritePriority x r c s
  rw [nextWithFlag_eq, hv, answers_next]
  exact h.setRegs v

/-- No target of a sprite that is drawn lies outside the grid. -/
theorem onScreen_of_find?_eq_none {targets : List (Nat × Nat)} {c : Config}
    (h : (targets.find? fun t => !decide (onScreen c t.1 t.2)) = none) :
    ∀ t ∈ targets, onScreen c t.1 t.2 := by
  simpa using h

theorem drawSprite_keeps_inv (h : s.Inv) (targets : List (Nat × Nat)) (x y : Reg) (n : Nibble) :
    Answers State.Inv (drawSprite targets (.drw x y n) s) :=
  answers_drawSprite (fun _ _ => raiseExec_keeps_inv h rfl) fun hon =>
    (h.setPixels (wf_foldl_drawPixel (onScreen_of_find?_eq_none hon) h.pixels)).setRegs _

/-! ### The invariant (R36): instructions and steps -/

theorem execRet_keeps_inv (h : s.Inv) (hs : s.running) : Answers State.Inv (execRet s) :=
  answers_execRet (fun _ => raiseExec_keeps_inv h rfl) fun a rest hst =>
    have hrest : rest.length ≤ s.cfg.stackDepth := by
      have hlen := h.stack
      rw [hst, List.length_cons] at hlen
      omega
    (h.setStack hrest).setPc hs a

theorem execCall_keeps_inv (h : s.Inv) (hs : s.running) (nnn : Addr12) :
    Answers State.Inv (execCall nnn s) :=
  answers_execCall (fun _ => raiseExec_keeps_inv h rfl) fun hlt =>
    (h.setStack (l := s.pc :: s.stack) hlt).setPc hs (zextAddr nnn)

theorem execLdB_keeps_inv (h : s.Inv) (x : Reg) : Answers State.Inv (execLdB x s) :=
  answers_checkData (fun _ => raiseExec_keeps_inv h rfl) fun hlt => answers_next.2 <|
    h.setMem (Memory.wf_writeList h.mem (show s.effAddr 2 + 1 ≤ s.cfg.memSize from hlt))

theorem execDump_keeps_inv (h : s.Inv) (x : Reg) : Answers State.Inv (execDump x s) :=
  answers_execDump (raiseExec_keeps_inv h rfl) fun hlt =>
    have haddr : ∀ k ∈ regsUpTo x, s.effAddr k.val < s.cfg.memSize := fun k hk =>
      have hkx : k.val ≤ x.val := mem_regsUpTo.1 hk
      (Nat.add_le_add_left hkx s.i.toNat).trans_lt hlt
    (h.setMem (wf_foldl_write _ h.mem haddr)).setI _

theorem timerValue_le (c : Config) (v : Byte) : timerValue c v.toNat ≤ 255 :=
  (Nat.mod_le _ _).trans (Nat.le_of_lt_succ v.isLt)

/-- Every instruction of a running machine keeps the invariant. -/
theorem exec_keeps_inv (h : s.Inv) (hs : s.running) (i : Instr) : Answers State.Inv (exec i s) := by
  cases i with
  | ret => exact execRet_keeps_inv h hs
  | call nnn => exact execCall_keeps_inv h hs nnn
  | jp | jpV0 => exact answers_next.2 (h.setPc hs _)
  | seImm | sneImm | seReg | sneReg => exact skipIf_keeps_inv h hs _
  | skp => exact withKey_skipIf_keeps_inv h hs rfl s.key
  | sknp => exact withKey_skipIf_keeps_inv h hs rfl fun k => !s.key k
  | ldVxK => exact answers_execLdVxK (fun _ _ => h.setRegs _) fun _ => h.setPc hs _
  | addReg | sub | shr | subn | shl => exact nextWithFlag_keeps_inv h _ _ _
  | ldImm | addImm | ldReg | or | and | xor | ldVxDt => exact answers_next.2 (h.setRegs _)
  | rnd => exact answers_next.2 ((h.setDraws _).setRegs _)
  | ldI | addI | ldF => exact answers_next.2 (h.setI _)
  | cls => exact answers_next.2 (h.setPixels (Pixels.wf_clear s.cfg))
  | drw x y n =>
    exact answers_execDrw (fun _ => raiseExec_keeps_inv h rfl) fun _ => drawSprite_keeps_inv h _ x y n
  | ldDtVx x => exact answers_next.2 (h.setDt (timerValue_le s.cfg (s.reg x)))
  | ldStVx => exact answers_next.2 h
  | ldB x => exact execLdB_keeps_inv h x
  | dump x => exact execDump_keeps_inv h x
  | load x => exact answers_execLoad (raiseExec_keeps_inv h rfl) fun v _ => (h.setRegs v).setI _

theorem step_keeps_inv (h : s.Inv) : Answers State.Inv (step s) := by
  rcases step_cases s with ⟨-, ht⟩ | ⟨-, hpc, ht⟩ | ⟨hs, -, -, ht⟩ | ⟨hs, -, i, -, ht⟩
  · exact ⟨s, ht, h⟩
  · exact ⟨_, ht, h.raiseFetch hpc⟩
  · exact ⟨_, ht, h.setPc hs _⟩
  · rw [ht]; exact exec_keeps_inv (s := s.advancePc) (h.setPc hs _) hs i

end

/-- Settles O22, over the cases of a step: halted, a fetch fault, an unknown word, an instruction executed. -/
theorem stepKeepsInvariant : Obligations.StepKeepsInvariant :=
  fun _ _ h ht => (step_keeps_inv h).of_next ht

/-! ### The invariant (R36): reset and the HOST's transactions -/

theorem resetOf_inv {c : Config} (hc : c.Valid) : (State.resetOf c).Inv where
  cfg := hc
  mem := Memory.wf_nil c
  pixels := Pixels.wf_clear c
  timer := Nat.zero_le _
  stack := Nat.zero_le _
  latch := State.running.latchCoherent (State.resetOf_halt c)

/-- Settles O21: the reset state holds nothing that could exceed a bound. -/
theorem resetMeetsInvariant : Obligations.ResetMeetsInvariant :=
  ⟨resetOf_inv default_valid, fun _ hc => resetOf_inv hc⟩

/-- An image that fits is listed within `MEM_SIZE` (R129). -/
theorem loadImage_keeps_inv {s : State} (h : s.Inv) {image : List Byte}
    (hfits : image.length ≤ s.cfg.memSize - s.cfg.programStart) : (s.loadImage image).Inv := by
  obtain ⟨-, hstart, -⟩ := h.cfg
  have himage : Memory.wf (Memory.writeList [] s.cfg s.cfg.programStart image) s.cfg :=
    Memory.wf_writeList (Memory.wf_nil s.cfg) (by omega)
  exact ((resetOf_inv h.cfg).setMem himage).setDraws _

theorem decrementTimer_keeps_inv {s : State} (h : s.Inv) : (decrementTimer s).Inv := by
  unfold decrementTimer
  split
  · exact h
  · exact h.setDt ((Nat.sub_le s.dt 1).trans h.timer)

/-- Settles O23: a load of an image starts anew from the reset state, a tick lowers the timer, a key event
writes a flag. -/
theorem hostTransactionsKeepInvariant : Obligations.HostTransactionsKeepInvariant := by
  intro x s t hx h ht
  rcases transact_cases ht with
    ⟨hstep, -⟩ | ⟨image, -, rfl | ⟨rfl, hfits⟩⟩ | ⟨-, rfl⟩ | ⟨k, b, -, rfl⟩
  · exact absurd hstep hx
  · exact h
  · exact loadImage_keeps_inv h hfits
  · exact decrementTimer_keeps_inv h
  · exact h.setKeys _

/-! ### The reset state (R34) -/

/-- Memory with nothing listed holds the font table at `FONT_BASE` (R35). -/
theorem read_nil_fontTable {c : Config} {j : Nat} (hj : j < c.fontTable.length) :
    Memory.read [] c (c.fontBase + j) = c.fontTable[j] := by
  rw [Memory.read_unlisted rfl]
  simp [Memory.unlisted, fontByte?, hj]

/-- Settles O3: each field as `State.resetOf` sets it; `PROGRAM_START` fits 16 bits by R8. -/
theorem resetHoldsResetValues : Obligations.ResetHoldsResetValues := by
  intro c hc
  obtain ⟨hsize, hstart, -⟩ := hc
  have hpc : (State.resetOf c).pc.toNat = c.programStart := by
    rw [State.resetOf_pc, BitVec.toNat_ofNat, Nat.mod_eq_of_lt (by omega)]
  exact ⟨State.resetOf_reg c, State.resetOf_i c, hpc, State.resetOf_stack c, State.resetOf_dt c,
    State.resetOf_key c, fun px py _ => Pixels.get_clear px py, fun j hj => read_nil_fontTable hj,
    State.resetOf_halt c⟩

/-! ### What may change: one more field written -/

section
variable {parts : List Part} {written : List Reg} {s t : State}

theorem agreeOn.trans {s t u : State} {p : Part} (hst : agreeOn s t p) (htu : agreeOn t u p) :
    agreeOn s u p := by
  cases p with
  | keys => exact fun k => (htu k).trans (hst k)
  | mem => exact fun a => (htu a).trans (hst a)
  | pixels => exact fun px py => (htu px py).trans (hst px py)
  | cfg | i | pc | stack | dt | halt | draws => exact Eq.trans htu hst

/-- A write of a listed part, from a state where only the listed may have changed. -/
theorem UnchangedBut.write {u : State} {q : Part} (h : UnchangedBut parts written s t)
    (hq : q ∈ parts) (hreg : ∀ r, u.reg r = t.reg r) (hpart : ∀ p, p ≠ q → agreeOn t u p) :
    UnchangedBut parts written s u :=
  ⟨fun r hr => (hreg r).trans (h.1 r hr),
    fun p hp => (h.2 p hp).trans (hpart p fun hpq => hp (hpq ▸ hq))⟩

theorem UnchangedBut.setPc (h : UnchangedBut parts written s t) (hq : .pc ∈ parts) (a : Addr) :
    UnchangedBut parts written s (t.setPc a) :=
  h.write hq (fun _ => rfl) fun p hp => by cases p <;> simp_all [agreeOn]

theorem UnchangedBut.setI (h : UnchangedBut parts written s t) (hq : .i ∈ parts) (a : Addr) :
    UnchangedBut parts written s (t.setI a) :=
  h.write hq (fun _ => rfl) fun p hp => by cases p <;> simp_all [agreeOn]

theorem UnchangedBut.setStack (h : UnchangedBut parts written s t) (hq : .stack ∈ parts)
    (l : List Addr) : UnchangedBut parts written s (t.setStack l) :=
  h.write hq (fun _ => rfl) fun p hp => by cases p <;> simp_all [agreeOn]

theorem UnchangedBut.setDt (h : UnchangedBut parts written s t) (hq : .dt ∈ parts) (v : Nat) :
    UnchangedBut parts written s (t.setDt v) :=
  h.write hq (fun _ => rfl) fun p hp => by cases p <;> simp_all [agreeOn]

theorem UnchangedBut.setPixels (h : UnchangedBut parts written s t) (hq : .pixels ∈ parts)
    (p : Pixels) : UnchangedBut parts written s (t.setPixels p) :=
  h.write hq (fun _ => rfl) fun p hp => by cases p <;> simp_all [agreeOn]

theorem UnchangedBut.setMem (h : UnchangedBut parts written s t) (hq : .mem ∈ parts) (m : Memory) :
    UnchangedBut parts written s (t.setMem m) :=
  h.write hq (fun _ => rfl) fun p hp => by cases p <;> simp_all [agreeOn]

theorem UnchangedBut.setDraws (h : UnchangedBut parts written s t) (hq : .draws ∈ parts) (n : Nat) :
    UnchangedBut parts written s (t.setDraws n) :=
  h.write hq (fun _ => rfl) fun p hp => by cases p <;> simp_all [agreeOn]

/-- Registers written without a change outside the listed ones. -/
theorem UnchangedBut.setRegs (h : UnchangedBut parts written s t) {v : Vector Byte 16}
    (hv : ∀ r, r ∉ written → (t.setRegs v).reg r = t.reg r) :
    UnchangedBut parts written s (t.setRegs v) :=
  ⟨fun r hr => (hv r hr).trans (h.1 r hr),
    fun p hp => (h.2 p hp).trans (by cases p <;> simp [agreeOn])⟩

theorem UnchangedBut.setReg (h : UnchangedBut parts written s t) {x : Reg} (hx : x ∈ written)
    (v : Byte) : UnchangedBut parts written s (t.setReg x v) :=
  h.setRegs fun r hr => (State.reg_setReg t x r v).trans (if_neg (ne_of_mem_of_not_mem hx hr).symm)

end

/-! ### What may change: shared operations -/

/-- The answer is a next state in which nothing has changed but the listed parts and registers. -/
abbrev AnswersUnchangedBut (parts : List Part) (written : List Reg) (s : State) (a : Answer) : Prop :=
  Answers (UnchangedBut parts written s) a

section
variable {parts : List Part} {written : List Reg} (s : State)

theorem raiseExec_unchangedBut (f : Fault) (i : Instr) :
    AnswersUnchangedBut (.halt :: parts) written s (raiseExec f i s) :=
  ⟨_, raiseExec_eq f i s, (UnchangedBut.raise s f _ _).mono (by simp) (by simp)⟩

theorem skipIf_unchangedBut (c : Bool) : AnswersUnchangedBut [.halt, .pc] [] s (skipIf c s) :=
  ⟨_, skipIf_eq c s, (UnchangedBut.refl _ _ s).setPc (by decide) _⟩

theorem withKey_skipIf_unchangedBut (x : Reg) (i : Instr) (c : Key → Bool) :
    AnswersUnchangedBut [.halt, .pc] [] s (withKey x i s fun k => skipIf (c k) s) :=
  answers_withKey (fun _ => raiseExec_unchangedBut s _ i) fun _ => skipIf_unchangedBut s _

theorem nextWithFlag_unchangedBut (x : Reg) (r c : Byte) :
    AnswersUnchangedBut [.halt] [x, vf] s (nextWithFlag x r c s) := by
  have h := UnchangedBut.refl [.halt] [x, vf] s
  refine ⟨_, nextWithFlag_eq x r c s, ?_⟩
  cases s.cfg.vfWritePriority with
  | flag => exact (h.setReg (by simp) r).setReg (by simp) c
  | result => exact (h.setReg (by simp) c).setReg (by simp) r

/-! ### What may change: instructions -/

theorem next_setReg_unchangedBut (x : Reg) (v : Byte) :
    AnswersUnchangedBut [.halt] [x] s (.next (s.setReg x v)) :=
  answers_next.2 ((UnchangedBut.refl _ _ s).setReg (by simp) v)

theorem next_setI_unchangedBut (a : Addr) :
    AnswersUnchangedBut [.halt, .i] [] s (.next (s.setI a)) :=
  answers_next.2 ((UnchangedBut.refl _ _ s).setI (by decide) a)

theorem next_setPc_unchangedBut (a : Addr) :
    AnswersUnchangedBut [.halt, .pc] [] s (.next (s.setPc a)) :=
  answers_next.2 ((UnchangedBut.refl _ _ s).setPc (by decide) a)

theorem execRet_unchangedBut : AnswersUnchangedBut [.halt, .pc, .stack] [] s (execRet s) :=
  answers_execRet (fun _ => raiseExec_unchangedBut s _ _) fun a rest _ =>
    ((UnchangedBut.refl _ _ s).setStack (by decide) rest).setPc (by decide) a

theorem execCall_unchangedBut (nnn : Addr12) :
    AnswersUnchangedBut [.halt, .pc, .stack] [] s (execCall nnn s) :=
  answers_execCall (fun _ => raiseExec_unchangedBut s _ _) fun _ =>
    ((UnchangedBut.refl _ _ s).setStack (by decide) (s.pc :: s.stack)).setPc (by decide) _

theorem execRnd_unchangedBut (x : Reg) (nn : Byte) :
    AnswersUnchangedBut [.halt, .draws] [x] s (execRnd x nn s) :=
  answers_next.2 (((UnchangedBut.refl _ _ s).setDraws (by decide) _).setReg (by simp) _)

theorem execCls_unchangedBut : AnswersUnchangedBut [.halt, .pixels] [] s (execCls s) :=
  answers_next.2 ((UnchangedBut.refl _ _ s).setPixels (by decide) _)

theorem execDrw_unchangedBut (x y : Reg) (n : Nibble) :
    AnswersUnchangedBut [.halt, .pixels] [vf] s (execDrw x y n s) :=
  answers_execDrw (fun _ => raiseExec_unchangedBut s _ _) fun _ =>
    answers_drawSprite (fun _ _ => raiseExec_unchangedBut s _ _) fun _ =>
      ((UnchangedBut.refl _ _ s).setPixels (by decide) _).setReg (by decide) _

theorem execLdVxK_unchangedBut (x : Reg) :
    AnswersUnchangedBut [.halt, .pc] [x] s (execLdVxK x s) :=
  answers_execLdVxK (fun _ _ => (UnchangedBut.refl _ _ s).setReg (by simp) _) fun _ =>
    (UnchangedBut.refl _ _ s).setPc (by decide) _

theorem execLdDtVx_unchangedBut (x : Reg) :
    AnswersUnchangedBut [.halt, .dt] [] s (execLdDtVx x s) :=
  answers_next.2 ((UnchangedBut.refl _ _ s).setDt (by decide) _)

theorem execLdB_unchangedBut (x : Reg) : AnswersUnchangedBut [.halt, .mem] [] s (execLdB x s) :=
  answers_checkData (fun _ => raiseExec_unchangedBut s _ _) fun _ =>
    answers_next.2 ((UnchangedBut.refl _ _ s).setMem (by decide) _)

theorem execDump_unchangedBut (x : Reg) :
    AnswersUnchangedBut [.halt, .i, .mem] [] s (execDump x s) :=
  answers_execDump (raiseExec_unchangedBut s _ _) fun _ =>
    ((UnchangedBut.refl _ _ s).setMem (by decide) _).setI (by decide) _

theorem execLoad_unchangedBut (x : Reg) :
    AnswersUnchangedBut [.halt, .i] (regsUpTo x) s (execLoad x s) :=
  answers_execLoad (raiseExec_unchangedBut s _ _) fun _ hv =>
    ((UnchangedBut.refl _ _ s).setRegs fun r hr => (hv r).trans (if_neg hr)).setI (by decide) _

/-- Every instruction leaves all but the latch, its own parts and its own registers as they were. -/
theorem exec_unchangedBut (i : Instr) :
    AnswersUnchangedBut (.halt :: writtenParts i) (writtenRegs i) s (exec i s) := by
  cases i with
  | ret => exact execRet_unchangedBut s
  | call nnn => exact execCall_unchangedBut s nnn
  | jp | jpV0 => exact next_setPc_unchangedBut s _
  | seImm | sneImm | seReg | sneReg => exact skipIf_unchangedBut s _
  | skp x => exact withKey_skipIf_unchangedBut s x _ s.key
  | sknp x => exact withKey_skipIf_unchangedBut s x _ fun k => !s.key k
  | ldVxK x => exact execLdVxK_unchangedBut s x
  | addReg | sub | shr | subn | shl => exact nextWithFlag_unchangedBut s _ _ _
  | ldImm | addImm | ldReg | or | and | xor | ldVxDt => exact next_setReg_unchangedBut s _ _
  | rnd x nn => exact execRnd_unchangedBut s x nn
  | ldI | addI | ldF => exact next_setI_unchangedBut s _
  | cls => exact execCls_unchangedBut s
  | drw x y n => exact execDrw_unchangedBut s x y n
  | ldDtVx x => exact execLdDtVx_unchangedBut s x
  | ldStVx => exact answers_next.2 (UnchangedBut.refl _ _ s)
  | ldB x => exact execLdB_unchangedBut s x
  | dump x => exact execDump_unchangedBut s x
  | load x => exact execLoad_unchangedBut s x

end

/-- Settles O24: what an instruction may change is what its meaning writes, fault or not. -/
theorem eachUnitHasItsWriters : Obligations.EachUnitHasItsWriters :=
  fun i s _ h => (exec_unchangedBut s i).of_next h

end Sys2Proof.Machine
end

section
/-! PROOFS. 20_memory: a fetch outside memory (R41), and a store seen by the next fetch (R51). -/

namespace Sys2Proof.Machine

/-! ### Fetch outside memory (R41, R109) -/

/-- Of the four cases of a step, the one of a running machine with no two bytes at `pc`. -/
theorem step_of_fetchFault {s : State} (hs : s.running) (hpc : s.cfg.memSize ≤ s.pc.toNat + 1) :
    step s = .next (s.raise .fetchOutOfBounds s.pc none) := by
  rcases step_cases s with ⟨hf, -⟩ | ⟨-, -, h⟩ | ⟨-, hlt, -⟩ | ⟨-, hlt, -⟩
  · exact absurd hs hf
  · exact h
  · omega
  · omega

/-- Settles O16: the step is the fetch fault, which writes the latch only. -/
theorem fetchOutsideMemoryFaults : Obligations.FetchOutsideMemoryFaults :=
  fun s hs hpc =>
    ⟨_, step_of_fetchFault hs hpc, s.raise_halt _ _ _, UnchangedBut.raise s _ _ _⟩

/-! ### A register dump, read back (R94, R46) -/

section
variable {s : State} {x : Reg}

/-- When the highest address of a dump exists, all of them do (R40). -/
theorem effAddr_lt_of_mem_regsUpTo (hx : s.effAddr x.val < s.cfg.memSize) :
    ∀ k ∈ regsUpTo x, s.effAddr k.val < s.cfg.memSize :=
  fun k hk =>
    have hkx : k.val ≤ x.val := mem_regsUpTo.1 hk
    (Nat.add_le_add_left hkx s.i.toNat).trans_lt hx

/-- Different registers are dumped to different addresses: an effective address never wraps (R39). -/
theorem effAddr_injective (s : State) (j k : Reg) (h : s.effAddr j.val = s.effAddr k.val) : j = k :=
  Fin.ext (Nat.add_left_cancel h)

/-- A dump of registers that fit stores them and moves `I`. -/
theorem execDump_of_lt (hx : s.effAddr x.val < s.cfg.memSize) :
    execDump x s = .next ((s.setMem ((regsUpTo x).foldl
      (fun m k => m.write s.cfg (s.effAddr k.val) (s.reg k)) s.mem)).bumpI x) := by
  rw [execDump, checkData_of_lt hx, foldl_writeByte]

/-- After a dump of registers that fit, the byte at each address of the range reads as its register. -/
theorem execDump_stores (hm : s.mem.wf s.cfg) (hx : s.effAddr x.val < s.cfg.memSize) :
    Answers (fun t => ∀ k, k ≤ x → t.readByte (s.effAddr k.val) = s.reg k) (execDump x s) :=
  ⟨_, execDump_of_lt hx, fun _ hk =>
    read_foldl_write s.reg hm (effAddr_lt_of_mem_regsUpTo hx) (regsUpTo_nodup x)
      (effAddr_injective s) (mem_regsUpTo.2 hk)⟩

end

/-- Settles O26: the dump leaves `pc`, so the fetch reads the two bytes that registers 0 and 1 went to. -/
theorem storeIsSeenByNextFetch : Obligations.StoreIsSeenByNextFetch := by
  intro s t x hm hx hi hlt ht
  obtain ⟨-, hparts⟩ := (execDump_unchangedBut s x).of_next ht
  have hpc : t.pc = s.i := Eq.trans (hparts .pc (by decide)) hi.symm
  have hcfg : t.cfg = s.cfg := hparts .cfg (by decide)
  have hbytes := (execDump_stores hm hlt).of_next ht
  have hhigh : t.readByte t.pc.toNat = s.reg 0 := by
    rw [hpc]
    exact hbytes 0 (Fin.zero_le x)
  have hlow : t.readByte (t.pc.toNat + 1) = s.reg 1 := by
    rw [hpc]
    exact hbytes 1 hx
  have hfits : t.pc.toNat + 1 < t.cfg.memSize := by
    rw [hpc, hcfg]
    exact effAddr_lt_of_mem_regsUpTo hlt 1 (mem_regsUpTo.2 hx)
  exact ⟨t.advancePc, by rw [fetchNext_of_lt hfits, State.wordAtPc, hhigh, hlow]⟩

end Sys2Proof.Machine
end

section
/-! PROOFS. 30_encoding: the decoder and the encoder are inverse to each other (R54 to R57, R60), the unknown
words (R61), the opcode map (R57), and how a step passes over them (R62, R63). -/

namespace Sys2Proof.Machine

/-! ### The fields of an encoded word (R54, R55) -/

section
variable (f n : Nibble) (nnn : Addr12) (x y : Reg) (nn : Byte)

/-- A register field is read off its four bits. -/
theorem fieldX_eq {w : Word} {x : Reg} (h : w.extractLsb' 8 4 = regBits x) : fieldX w = x :=
  congrArg BitVec.toFin h

theorem fieldY_eq {w : Word} {y : Reg} (h : w.extractLsb' 4 4 = regBits y) : fieldY w = y :=
  congrArg BitVec.toFin h

theorem regBits_fieldX (w : Word) : regBits (fieldX w) = w.extractLsb' 8 4 := rfl

theorem regBits_fieldY (w : Word) : regBits (fieldY w) = w.extractLsb' 4 4 := rfl

@[simp] theorem fieldFamily_encNNN : fieldFamily (encNNN f nnn) = f := by
  ext k hk
  interval_cases k <;> simp [fieldFamily, encNNN]

@[simp] theorem fieldNNN_encNNN : fieldNNN (encNNN f nnn) = nnn := by
  ext k hk
  interval_cases k <;> simp [fieldNNN, encNNN]

@[simp] theorem fieldFamily_encXNN : fieldFamily (encXNN f x nn) = f := by
  ext k hk
  interval_cases k <;> simp [fieldFamily, encXNN]

@[simp] theorem fieldX_encXNN : fieldX (encXNN f x nn) = x := by
  refine fieldX_eq ?_
  ext k hk
  interval_cases k <;> simp [encXNN]

@[simp] theorem fieldNN_encXNN : fieldNN (encXNN f x nn) = nn := by
  ext k hk
  interval_cases k <;> simp [fieldNN, encXNN]

@[simp] theorem fieldFamily_encXYN : fieldFamily (encXYN f x y n) = f := by
  ext k hk
  interval_cases k <;> simp [fieldFamily, encXYN]

@[simp] theorem fieldX_encXYN : fieldX (encXYN f x y n) = x := by
  refine fieldX_eq ?_
  ext k hk
  interval_cases k <;> simp [encXYN]

@[simp] theorem fieldY_encXYN : fieldY (encXYN f x y n) = y := by
  refine fieldY_eq ?_
  ext k hk
  interval_cases k <;> simp [encXYN]

@[simp] theorem fieldN_encXYN : fieldN (encXYN f x y n) = n := by
  ext k hk
  interval_cases k <;> simp [fieldN, encXYN]

end

/-- Settles O10, format by format: the decoder finds in the encoded word the family, the sub-selector and the
operands it was encoded from. -/
theorem decodeOfEncode : Obligations.DecodeOfEncode := by
  intro i
  cases i with
  | cls | ret => rfl
  | jp | call | ldI | jpV0 => simp [encode, decode]
  | seImm | sneImm | ldImm | addImm | rnd => simp [encode, decode]
  | seReg | sneReg | drw => simp [encode, decode]
  | ldReg | or | and | xor | addReg | sub | shr | subn | shl => simp [encode, decode, decodeFamily8]
  | skp | sknp => simp [encode, encXSS, decode, decodeFamilyE]
  | ldVxDt | ldVxK | ldDtVx | ldStVx | addI | ldF | ldB | dump | load =>
    simp [encode, encXSS, decode, decodeFamilyF]

/-! ### A word is the encoding of its fields -/

section
variable (w : Word)

theorem encNNN_fields : encNNN (fieldFamily w) (fieldNNN w) = w := by
  ext k hk
  interval_cases k <;> simp [encNNN, fieldFamily, fieldNNN]

theorem encXNN_fields : encXNN (fieldFamily w) (fieldX w) (fieldNN w) = w := by
  ext k hk
  interval_cases k <;> simp [encXNN, fieldFamily, regBits_fieldX, fieldNN]

theorem encXYN_fields : encXYN (fieldFamily w) (fieldX w) (fieldY w) (fieldN w) = w := by
  ext k hk
  interval_cases k <;> simp [encXYN, fieldFamily, regBits_fieldX, regBits_fieldY, fieldN]

end

section
variable {w : Word} {f n : Nibble} {ss : Byte}

theorem encNNN_of_family (hf : (fieldFamily w).toNat = f.toNat) : encNNN f (fieldNNN w) = w := by
  rw [← BitVec.eq_of_toNat_eq hf, encNNN_fields]

theorem encXNN_of_family (hf : (fieldFamily w).toNat = f.toNat) :
    encXNN f (fieldX w) (fieldNN w) = w := by
  rw [← BitVec.eq_of_toNat_eq hf, encXNN_fields]

theorem encXSS_of_selector (hf : (fieldFamily w).toNat = f.toNat)
    (hs : (fieldNN w).toNat = ss.toNat) : encXSS f (fieldX w) ss = w := by
  rw [← BitVec.eq_of_toNat_eq hs, encXSS, encXNN_of_family hf]

theorem encXYN_of_family (hf : (fieldFamily w).toNat = f.toNat) :
    encXYN f (fieldX w) (fieldY w) (fieldN w) = w := by
  rw [← BitVec.eq_of_toNat_eq hf, encXYN_fields]

theorem encXYN_of_selector (hf : (fieldFamily w).toNat = f.toNat)
    (hn : (fieldN w).toNat = n.toNat) : encXYN f (fieldX w) (fieldY w) n = w := by
  rw [← BitVec.eq_of_toNat_eq hn, encXYN_of_family hf]

end

/-! ### What a decoding says of its word -/

/-- The family in which the words of an unknown class lie (R61). -/
def unknownFamily : UnknownWord → Nibble
  | .family0 => 0x0
  | .family5 => 0x5
  | .family8 => 0x8
  | .family9 => 0x9
  | .familyE => 0xE
  | .familyF => 0xF

/-- An instruction is one that encodes to the word; an unknown class is one of the word's family. -/
def Describes (w : Word) : Decoded → Prop
  | .instr i => encode i = w
  | .unknown u => fieldFamily w = unknownFamily u

section
variable {w : Word}

theorem decodeFamily8_describes (hf : (fieldFamily w).toNat = 0x8) :
    Describes w (decodeFamily8 w) := by
  fun_cases decodeFamily8 w with
  | case1 _ _ hn | case2 _ _ hn | case3 _ _ hn | case4 _ _ hn | case5 _ _ hn | case6 _ _ hn
  | case7 _ _ hn | case8 _ _ hn | case9 _ _ hn => exact encXYN_of_selector hf hn
  | case10 => exact BitVec.eq_of_toNat_eq hf

theorem decodeFamilyE_describes (hf : (fieldFamily w).toNat = 0xE) :
    Describes w (decodeFamilyE w) := by
  fun_cases decodeFamilyE w with
  | case1 hs | case2 hs => exact encXSS_of_selector hf hs
  | case3 => exact BitVec.eq_of_toNat_eq hf

theorem decodeFamilyF_describes (hf : (fieldFamily w).toNat = 0xF) :
    Describes w (decodeFamilyF w) := by
  fun_cases decodeFamilyF w with
  | case1 _ hs | case2 _ hs | case3 _ hs | case4 _ hs | case5 _ hs | case6 _ hs | case7 _ hs
  | case8 _ hs | case9 _ hs => exact encXSS_of_selector hf hs
  | case10 => exact BitVec.eq_of_toNat_eq hf

end

/-- The decoder, family by family: family 0, then families 1 to F in order, two cases for a family with one
sub-selector. -/
theorem decode_describes (w : Word) : Describes w (decode w) := by
  fun_cases decode w with
  | case1 _ h | case2 _ _ h => exact h.symm
  | case4 hf | case5 hf | case15 hf | case16 hf => exact encNNN_of_family hf
  | case6 hf | case7 hf | case10 hf | case11 hf | case17 hf => exact encXNN_of_family hf
  | case8 hf hn | case13 hf hn => exact encXYN_of_selector hf (congrArg BitVec.toNat hn)
  | case18 hf => exact encXYN_of_family hf
  | case12 hf => exact decodeFamily8_describes hf
  | case19 hf => exact decodeFamilyE_describes hf
  | case20 => exact decodeFamilyF_describes (by simp only [imp_false] at *; omega)
  | case3 hf | case9 hf | case14 hf => exact BitVec.eq_of_toNat_eq hf

section
variable {w : Word}

theorem encode_of_decode {i : Instr} (h : decode w = .instr i) : encode i = w := by
  simpa [Describes, h] using decode_describes w

theorem family_of_decode {u : UnknownWord} (h : decode w = .unknown u) :
    fieldFamily w = unknownFamily u := by
  simpa [Describes, h] using decode_describes w

end

/-- Settles O11: the word is put together again from the fields the decoder took it apart into. -/
theorem encodeOfDecode : Obligations.EncodeOfDecode :=
  fun _ _ => encode_of_decode

/-! ### The decoder in the families that have unknown words (R56, R61) -/

section
variable {w : Word}

theorem decode_of_family0 (h : fieldFamily w = 0x0) :
    decode w = if w = 0x00E0#16 then .instr .cls
      else if w = 0x00EE#16 then .instr .ret else .unknown .family0 := by
  rw [decode, h]; rfl

theorem decode_of_family5 (h : fieldFamily w = 0x5) :
    decode w = if fieldN w = 0x0#4 then .instr (.seReg (fieldX w) (fieldY w))
      else .unknown .family5 := by
  rw [decode, h]; rfl

theorem decode_of_family8 (h : fieldFamily w = 0x8) : decode w = decodeFamily8 w := by
  rw [decode, h]; rfl

theorem decode_of_family9 (h : fieldFamily w = 0x9) :
    decode w = if fieldN w = 0x0#4 then .instr (.sneReg (fieldX w) (fieldY w))
      else .unknown .family9 := by
  rw [decode, h]; rfl

theorem decode_of_familyE (h : fieldFamily w = 0xE) : decode w = decodeFamilyE w := by
  rw [decode, h]; rfl

theorem decode_of_familyF (h : fieldFamily w = 0xF) : decode w = decodeFamilyF w := by
  rw [decode, h]; rfl

/-! ### Unknown words (R61) -/

/-- The class of an unknown word is that of its family, so a class needs looking at in its own family only. -/
theorem decode_eq_unknown_iff {u : UnknownWord} {P : Prop}
    (h : fieldFamily w = unknownFamily u → (decode w = .unknown u ↔ P)) :
    decode w = .unknown u ↔ fieldFamily w = unknownFamily u ∧ P :=
  ⟨fun hd => ⟨family_of_decode hd, (h (family_of_decode hd)).1 hd⟩, fun ⟨hf, hP⟩ => (h hf).2 hP⟩

theorem decodeFamily8_eq_unknown_iff : decodeFamily8 w = .unknown .family8 ↔
    (fieldN w).toNat ∈ [0x8, 0x9, 0xA, 0xB, 0xC, 0xD, 0xF] := by
  fun_cases decodeFamily8 w with
  | case10 =>
    simp only [imp_false, List.mem_cons, List.not_mem_nil, or_false, true_iff] at *
    omega
  | _ => simp [*]

theorem decodeFamilyE_eq_unknown_iff :
    decodeFamilyE w = .unknown .familyE ↔ (fieldNN w).toNat ∉ [0x9E, 0xA1] := by
  fun_cases decodeFamilyE w <;> simp_all

theorem decodeFamilyF_eq_unknown_iff : decodeFamilyF w = .unknown .familyF ↔
    (fieldNN w).toNat ∉ [0x07, 0x0A, 0x15, 0x18, 0x1E, 0x29, 0x33, 0x55, 0x65] := by
  fun_cases decodeFamilyF w <;> simp_all

end

/-- Settles O13: in its own family, the decoder answers an unknown word where no sub-selector of R57 fits. -/
theorem unknownWordClasses : Obligations.UnknownWordClasses := by
  refine fun w => ⟨decode_eq_unknown_iff fun hf => ?_, decode_eq_unknown_iff fun hf => ?_,
    decode_eq_unknown_iff fun hf => ?_, decode_eq_unknown_iff fun hf => ?_,
    decode_eq_unknown_iff fun hf => ?_, decode_eq_unknown_iff fun hf => ?_⟩
  · rw [decode_of_family0 hf]
    split_ifs <;> simp [*]
  · rw [decode_of_family5 hf]
    simp
  · rw [decode_of_family8 hf, decodeFamily8_eq_unknown_iff]
  · rw [decode_of_family9 hf]
    simp
  · rw [decode_of_familyE hf, decodeFamilyE_eq_unknown_iff]
  · rw [decode_of_familyF hf, decodeFamilyF_eq_unknown_iff]

/-! ### The opcode map (R57) -/

section
variable {w p m : Word}

/-- A field that the mask covers reads the same in the word and in its masked bits. -/
theorem extractLsb'_of_mask {k l : Nat} (hm : m.extractLsb' k l = BitVec.allOnes l)
    (h : w &&& m = p) : w.extractLsb' k l = p.extractLsb' k l := by
  rw [← h, BitVec.extractLsb'_and, hm, BitVec.and_allOnes]

theorem fieldFamily_of_mask (hm : fieldFamily m = 0xF) (h : w &&& m = p) :
    fieldFamily w = fieldFamily p :=
  extractLsb'_of_mask hm h

theorem fieldN_of_mask (hm : fieldN m = 0xF) (h : w &&& m = p) : fieldN w = fieldN p :=
  extractLsb'_of_mask hm h

theorem fieldNN_of_mask (hm : fieldNN m = 0xFF) (h : w &&& m = p) : fieldNN w = fieldNN p :=
  extractLsb'_of_mask hm h

end

/-- An instruction of each row, in the order of the rows. -/
def oneOfEachRow : List Instr :=
  [.cls, .ret, .jp 0, .call 0, .seImm 0 0, .sneImm 0 0, .seReg 0 0, .ldImm 0 0, .addImm 0 0,
    .ldReg 0 0, .or 0 0, .and 0 0, .xor 0 0, .addReg 0 0, .sub 0 0, .shr 0 0, .subn 0 0, .shl 0 0,
    .sneReg 0 0, .ldI 0, .jpV0 0, .rnd 0 0, .drw 0 0 0, .skp 0, .sknp 0, .ldVxDt 0, .ldVxK 0,
    .ldDtVx 0, .ldStVx 0, .addI 0, .ldF 0, .ldB 0, .dump 0, .load 0]

theorem map_row_oneOfEachRow : oneOfEachRow.map Instr.row = opcodeTable := rfl

theorem exists_row_of_mem {r : OpRow} (h : r ∈ opcodeTable) : ∃ i : Instr, i.row = r := by
  rw [← map_row_oneOfEachRow, List.mem_map] at h
  obtain ⟨i, -, hi⟩ := h
  exact ⟨i, hi⟩

/-- A word with the fixed bits of a row decodes to an instruction of that row: its family, and the sub-selector
where the row's mask covers one, are those of the row's pattern. -/
theorem exists_decode_of_row {w : Word} {i : Instr} (h : w &&& i.row.mask = i.row.pattern) :
    ∃ j, decode w = .instr j ∧ j.row = i.row := by
  cases i <;> simp only [Instr.row] at h <;> have hf := fieldFamily_of_mask rfl h
  case cls | ret =>
    obtain rfl := BitVec.and_allOnes.symm.trans h
    exact ⟨_, rfl, rfl⟩
  case jp | call | ldI | jpV0 | seImm | sneImm | ldImm | addImm | rnd | drw =>
    refine ⟨_, by rw [decode, hf]; rfl, ?_⟩
    rfl
  case seReg =>
    exact ⟨_, (decode_of_family5 hf).trans (if_pos (fieldN_of_mask rfl h)), rfl⟩
  case sneReg =>
    exact ⟨_, (decode_of_family9 hf).trans (if_pos (fieldN_of_mask rfl h)), rfl⟩
  case ldReg | or | and | xor | addReg | sub | shr | subn | shl =>
    have hn := fieldN_of_mask rfl h
    refine ⟨_, by rw [decode_of_family8 hf, decodeFamily8, hn]; rfl, ?_⟩
    rfl
  case skp | sknp =>
    have hs := fieldNN_of_mask rfl h
    refine ⟨_, by rw [decode_of_familyE hf, decodeFamilyE, hs]; rfl, ?_⟩
    rfl
  case ldVxDt | ldVxK | ldDtVx | ldStVx | addI | ldF | ldB | dump | load =>
    have hs := fieldNN_of_mask rfl h
    refine ⟨_, by rw [decode_of_familyF hf, decodeFamilyF, hs]; rfl, ?_⟩
    rfl

open Laws in
/-- The word of an instruction lies in the row of the instruction, and the row in the table. -/
theorem encode_in_row : ∀ i : Instr, TableRow.Statement i
  | .cls => TableRow.cls | .ret => TableRow.ret | .jp a => TableRow.jp a
  | .call a => TableRow.call a | .seImm a b => TableRow.seImm a b
  | .sneImm a b => TableRow.sneImm a b | .seReg a b => TableRow.seReg a b
  | .ldImm a b => TableRow.ldImm a b | .addImm a b => TableRow.addImm a b
  | .ldReg a b => TableRow.ldReg a b | .or a b => TableRow.or a b | .and a b => TableRow.and a b
  | .xor a b => TableRow.xor a b | .addReg a b => TableRow.addReg a b
  | .sub a b => TableRow.sub a b | .shr a b => TableRow.shr a b | .subn a b => TableRow.subn a b
  | .shl a b => TableRow.shl a b | .sneReg a b => TableRow.sneReg a b | .ldI a => TableRow.ldI a
  | .jpV0 a => TableRow.jpV0 a | .rnd a b => TableRow.rnd a b | .drw a b c => TableRow.drw a b c
  | .skp a => TableRow.skp a | .sknp a => TableRow.sknp a | .ldVxDt a => TableRow.ldVxDt a
  | .ldVxK a => TableRow.ldVxK a | .ldDtVx a => TableRow.ldDtVx a
  | .ldStVx a => TableRow.ldStVx a | .addI a => TableRow.addI a | .ldF a => TableRow.ldF a
  | .ldB a => TableRow.ldB a | .dump a => TableRow.dump a | .load a => TableRow.load a

theorem decode_row_iff {w : Word} {r : OpRow} (hr : r ∈ opcodeTable) :
    (∃ i, decode w = .instr i ∧ i.row = r) ↔ w &&& r.mask = r.pattern := by
  constructor
  · rintro ⟨i, hd, rfl⟩
    rw [← encode_of_decode hd]
    exact (encode_in_row i).1
  · obtain ⟨i, rfl⟩ := exists_row_of_mem hr
    exact exists_decode_of_row

theorem opcodeTable_nodup : opcodeTable.Nodup :=
  List.Nodup.of_map OpRow.pattern (by decide)

/-- A word decodes to one instruction, so it lies in one row. -/
theorem rows_disjoint : opcodeTable.Pairwise fun r q =>
    ∀ w : Word, ¬(w &&& r.mask = r.pattern ∧ w &&& q.mask = q.pattern) := by
  refine opcodeTable_nodup.imp_of_mem fun hr hq hne w ⟨hwr, hwq⟩ => hne ?_
  obtain ⟨i, hi, rfl⟩ := (decode_row_iff hr).2 hwr
  obtain ⟨j, hj, rfl⟩ := (decode_row_iff hq).2 hwq
  rw [hi] at hj
  cases hj
  rfl

/-- Settles O12: forwards, a decoded word is the encoding of its instruction, which lies in its row; backwards,
the row fixes every field that the decoder looks at. -/
theorem decoderMatchesOpcodeMap : Obligations.DecoderMatchesOpcodeMap :=
  ⟨fun _ hr _ => decode_row_iff hr, rows_disjoint, rfl, fun i => (encode_in_row i).2⟩

/-! ### Sample words (R54, R57) -/

/-- Settles O9, by running the decoder on each word. -/
theorem sampleWordsDecode : Obligations.SampleWordsDecode := by
  unfold Obligations.SampleWordsDecode
  decide

/-! ### The step over an unknown word (R62, R63) -/

/-- Of the four cases of a step, the one of a running machine whose word at `pc` is unknown. -/
theorem step_of_unknown {s : State} {u : UnknownWord} (hs : s.running)
    (hpc : s.pc.toNat + 1 < s.cfg.memSize) (hd : decode s.wordAtPc = .unknown u) :
    step s = .next s.advancePc := by
  rcases step_cases s with ⟨hf, -⟩ | ⟨-, hge, -⟩ | ⟨-, -, -, h⟩ | ⟨-, -, i, hi, -⟩
  · exact absurd hs hf
  · omega
  · exact h
  · rw [hd] at hi; cases hi

/-- The output `unknown_op` of the same step shows its word. -/
theorem unknownOp_of_unknown {s : State} {u : UnknownWord} (hs : s.running)
    (hpc : s.pc.toNat + 1 < s.cfg.memSize) (hd : decode s.wordAtPc = .unknown u) :
    s.unknownOp = some s.wordAtPc := by
  simp only [State.unknownOp, hs, fetchNext_of_lt hpc, hd]

/-- Settles O15: the step advances `pc` and the output reads the word that the fetch read. -/
theorem unknownWordIsPassedOver : Obligations.UnknownWordIsPassedOver := by
  rintro s _ u hs hpc rfl hd
  exact ⟨unknownOp_of_unknown hs hpc hd, s.advancePc, step_of_unknown hs hpc hd, s.setPc_pc _,
    (UnchangedBut.refl _ _ s).setPc (by decide) _⟩

end Sys2Proof.Machine
end

section
/-! PROOFS. 40_control_flow: returns and calls (R67, R69, R75), jumps (R68, R74) and conditional skips
(R70 to R73). -/

namespace Sys2Proof.Machine

/-! ### A fault of `execute`, and one write of `pc` -/

/-- A fault of `execute` latches the address and the word of its instruction and leaves the rest (R112). -/
theorem raiseExec_latches (f : Fault) (i : Instr) (s : State) :
    Answers (fun t => t.halt = some ⟨f, s.pc - 2, some (encode i)⟩ ∧ UnchangedBut [.halt] [] s t)
      (raiseExec f i s) :=
  ⟨_, raiseExec_eq f i s, s.raise_halt _ _ _, UnchangedBut.raise s _ _ _⟩

theorem setPc_unchangedBut_pc (s : State) (a : Addr) : UnchangedBut [.pc] [] s (s.setPc a) :=
  (UnchangedBut.refl _ _ s).setPc (by decide) a

theorem setStack_setPc_unchangedBut (s : State) (l : List Addr) (a : Addr) :
    UnchangedBut [.pc, .stack] [] s ((s.setStack l).setPc a) :=
  ((UnchangedBut.refl _ _ s).setStack (by decide) l).setPc (by decide) a

/-! ### RET and CALL, each case of the stack (R67, R69) -/

section
variable {s t : State} {nnn : Addr12}

theorem execRet_of_nil (h : s.stack = []) : execRet s = raiseExec .stackUnderflow .ret s := by
  simp only [execRet, h]

theorem execRet_of_cons {a : Addr} {rest : List Addr} (h : s.stack = a :: rest) :
    execRet s = .next ((s.setStack rest).setPc a) := by
  simp only [execRet, h]

theorem execCall_of_lt (h : s.stack.length < s.cfg.stackDepth) :
    execCall nnn s = .next ((s.push s.pc).setPc (zextAddr nnn)) :=
  if_neg (Nat.not_le.2 h)

theorem execCall_of_ge (h : s.cfg.stackDepth ≤ s.stack.length) :
    execCall nnn s = raiseExec .stackOverflow (.call nnn) s :=
  if_pos h

/-- A CALL that leaves CORE running is one that pushed. -/
theorem stack_of_execCall_running (h : execCall nnn s = .next t) (ht : t.running) :
    t.stack = s.pc :: s.stack := by
  rcases Nat.lt_or_ge s.stack.length s.cfg.stackDepth with hlt | hge
  · rw [execCall_of_lt hlt] at h
    cases h
    rfl
  · rw [execCall_of_ge hge] at h
    cases h
    cases ht

end

theorem zextAddr_toNat (nnn : Addr12) : (zextAddr nnn).toNat = nnn.toNat :=
  BitVec.toNat_setWidth_of_le (by decide)

/-- The word of a CALL as a sum: its family and its operand share no bit (R54, R57). -/
theorem encode_call (nnn : Addr12) : encode (.call nnn) = 0x2000 + nnn.setWidth 16 := by
  have hdisjoint : (0x2000 : Word) &&& nnn.setWidth 16 = 0 := by
    ext k hk
    interval_cases k <;> simp
  rw [BitVec.add_eq_or_of_and_eq_zero _ _ hdisjoint]
  rfl

/-- Settles O27: a pop of the top writes `pc` and the stack, a pop of nothing the latch. -/
theorem retPopsIntoPc : Obligations.RetPopsIntoPc := by
  refine ⟨fun s a rest h => ?_, fun s h => ?_⟩
  · exact ⟨_, execRet_of_cons h, rfl, rfl, setStack_setPc_unchangedBut s rest a⟩
  · obtain ⟨t, ht, hlatch⟩ := raiseExec_latches .stackUnderflow .ret s
    exact ⟨t, (execRet_of_nil h).trans ht, hlatch⟩

/-- Settles O29: below `STACK_DEPTH` the push and the jump write stack and `pc`; at it the fault writes the
latch, with the word of the CALL. -/
theorem callPushesReturnAddress : Obligations.CallPushesReturnAddress := by
  refine fun nnn s => ⟨fun hlt => ?_, fun hfull => ?_⟩
  · exact ⟨_, execCall_of_lt hlt, rfl, zextAddr_toNat nnn, setStack_setPc_unchangedBut s _ _⟩
  · obtain ⟨t, ht, hlatch⟩ := raiseExec_latches .stackOverflow (.call nnn) s
    rw [encode_call] at hlatch
    exact ⟨t, (execCall_of_ge hfull.ge).trans ht, hlatch⟩

/-- Settles O30: the fetch has moved `pc` to `a` + 2 before the CALL pushes it, and the fetch of the RET leaves
the stack alone, so this entry is the one popped. -/
theorem callThenRetReturns : Obligations.CallThenRetReturns := by
  intro s t u nnn hs hspc hcall hst ht hu hupc hret hstack
  rw [step_of_instr hs hspc hcall] at hst
  have hpushed : u.advancePc.stack = (s.pc + 2) :: s.stack :=
    hstack.trans (stack_of_execCall_running hst ht)
  exact ⟨_, (step_of_instr hu hupc hret).trans (execRet_of_cons hpushed), rfl, rfl⟩

/-! ### Jumps (R68, R74) -/

/-- Settles O28: the jump writes `pc` only, and NNN fits 16 bits. -/
theorem jpSetsPc : Obligations.JpSetsPc :=
  fun nnn s => ⟨_, rfl, zextAddr_toNat nnn, setPc_unchangedBut_pc s _⟩

/-- NNN + x[r] fits 16 bits: the two are below 2^12 and 2^8. -/
theorem toNat_zextAddr_add_regWide (nnn : Addr12) (s : State) (r : Reg) :
    (zextAddr nnn + s.regWide r).toNat = nnn.toNat + (s.reg r).toNat := by
  have hreg : (s.regWide r).toNat = (s.reg r).toNat := BitVec.toNat_setWidth_of_le (by decide)
  rw [BitVec.toNat_add, zextAddr_toNat, hreg, Nat.mod_eq_of_lt (by omega)]

/-- Settles O33: the sum of 16 bits does not wrap, so it is the sum of the two numbers. -/
theorem jpV0AddsRegisterZero : Obligations.JpV0AddsRegisterZero :=
  fun nnn s => ⟨_, rfl, toNat_zextAddr_add_regWide nnn s 0, setPc_unchangedBut_pc s _⟩

/-! ### Conditional skips (R70 to R73) -/

section
variable (s : State) {c : Bool} {p : Prop} [Decidable p]

/-- A skip whose test says that `p` holds. -/
theorem skipIf_of_iff (hc : c = true ↔ p) :
    Answers (fun t => t.pc = (if p then s.pc + 2 else s.pc) ∧ UnchangedBut [.pc] [] s t)
      (skipIf c s) :=
  ⟨_, skipIf_eq c s, by simp [hc], setPc_unchangedBut_pc s _⟩

/-- A skip whose test says that `p` fails. -/
theorem skipIf_of_iff_not (hc : c = true ↔ ¬p) :
    Answers (fun t => t.pc = (if p then s.pc else s.pc + 2) ∧ UnchangedBut [.pc] [] s t)
      (skipIf c s) := by
  simpa only [ite_not] using skipIf_of_iff s hc

end

/-- Settles O31: SE tests equality, SNE its negation. -/
theorem immediateSkips : Obligations.ImmediateSkips :=
  fun _ _ s => ⟨skipIf_of_iff s beq_iff_eq, skipIf_of_iff_not s bne_iff_ne⟩

/-- Settles O32: SE tests equality, SNE its negation. -/
theorem registerSkips : Obligations.RegisterSkips :=
  fun _ _ s => ⟨skipIf_of_iff s beq_iff_eq, skipIf_of_iff_not s bne_iff_ne⟩

end Sys2Proof.Machine
end

section
/-! PROOFS. 41_load_alu: loads and logic (R77 to R82), result and flag of the arithmetic and the shifts (R76,
R83 to R87), and the random load (R89). -/

namespace Sys2Proof.Machine

/-! ### One register written -/

theorem State.reg_setReg_same (s : State) (x : Reg) (v : Byte) : (s.setReg x v).reg x = v := by
  rw [State.reg_setReg, if_pos rfl]

theorem State.setReg_comm {x y : Reg} (h : x ≠ y) (s : State) (v w : Byte) :
    (s.setReg x v).setReg y w = (s.setReg y w).setReg x v :=
  congrArg s.setRegs (Vector.set_comm v w (Fin.val_ne_of_ne h))

theorem setReg_unchangedBut_reg (s : State) (x : Reg) (v : Byte) :
    UnchangedBut [] [x] s (s.setReg x v) :=
  (UnchangedBut.refl _ _ s).setReg (by simp) v

/-- Settles O34: one write of `x[X]`. -/
theorem plainLoadsWriteOneRegister : Obligations.PlainLoadsWriteOneRegister :=
  fun x y nn s =>
    ⟨⟨_, rfl, s.reg_setReg_same x nn, setReg_unchangedBut_reg s x nn⟩,
      ⟨_, rfl, s.reg_setReg_same x (s.reg y), setReg_unchangedBut_reg s x _⟩⟩

/-- Settles O35: one write of `x[X]`, with the sum of two 8-bit words. -/
theorem addImmediateWrapsWithoutFlag : Obligations.AddImmediateWrapsWithoutFlag :=
  fun x nn s =>
    ⟨_, rfl, by rw [State.reg_setReg_same, BitVec.toNat_add], setReg_unchangedBut_reg s x _⟩

/-- Settles O36: one write of `x[X]`, with the bitwise operation of the two registers. -/
theorem logicIsBitwiseWithoutFlag : Obligations.LogicIsBitwiseWithoutFlag := by
  refine fun x y s => ⟨⟨_, rfl, fun k => ?_, setReg_unchangedBut_reg s x _⟩,
    ⟨_, rfl, fun k => ?_, setReg_unchangedBut_reg s x _⟩,
    ⟨_, rfl, fun k => ?_, setReg_unchangedBut_reg s x _⟩⟩
  · rw [State.reg_setReg_same, BitVec.getLsbD_or]
  · rw [State.reg_setReg_same, BitVec.getLsbD_and]
  · rw [State.reg_setReg_same, BitVec.getLsbD_xor]

/-- Settles O43: the draw is counted, and a bit of an AND is clear where it is clear in the mask. -/
theorem rndIsMasked : Obligations.RndIsMasked := by
  intro x nn s
  have hreg : (s.countDraw.setReg x (s.rnd &&& nn)).reg x = s.rnd &&& nn :=
    State.reg_setReg_same _ x _
  refine ⟨_, rfl, hreg, fun k hk => ?_, s.countDraw.setReg_draws x _,
    ((UnchangedBut.refl _ _ s).setDraws (by decide) _).setReg (by simp) _⟩
  rw [hreg, BitVec.getLsbD_and, hk, Bool.and_false]

/-! ### Result and flag under the write priority (R76) -/

section
variable {p : VfPriority} {x : Reg} (r c : Byte) (s : State)

/-- The flag survives in VF unless the target is VF and the result is written last. -/
theorem reg_vf_writeResultAndFlag (h : x ≠ vf ∨ p = .flag) :
    (writeResultAndFlag p x r c s).reg vf = c := by
  rw [reg_writeResultAndFlag]
  rcases h with hx | rfl
  · simp [hx, hx.symm]
  · simp [eq_comm]

/-- The result survives in the target unless the target is VF and the flag is written last. -/
theorem reg_target_writeResultAndFlag (h : x ≠ vf ∨ p = .result) :
    (writeResultAndFlag p x r c s).reg x = r := by
  rw [reg_writeResultAndFlag, if_pos ⟨rfl, h⟩]

theorem writeResultAndFlag_unchangedBut (p : VfPriority) (x : Reg) :
    UnchangedBut [] [x, vf] s (writeResultAndFlag p x r c s) := by
  have h := UnchangedBut.refl [] [x, vf] s
  cases p with
  | flag => exact (h.setReg (by simp) r).setReg (by simp) c
  | result => exact (h.setReg (by simp) c).setReg (by simp) r

end

/-- What an instruction with a result and a flag answers, for a flag that reads as `k` and a result that reads
as `m` under `value`. -/
theorem nextWithFlag_writes {α : Type} {r c : Byte} {k : Nat} {m : α} (x : Reg) (s : State)
    (value : Byte → α) (hflag : c.toNat = k) (hresult : value r = m) :
    Answers (fun t =>
      (x ≠ vf ∨ s.cfg.vfWritePriority = .flag → (t.reg vf).toNat = k) ∧
      (x ≠ vf ∨ s.cfg.vfWritePriority = .result → value (t.reg x) = m) ∧
      UnchangedBut [] [x, vf] s t) (nextWithFlag x r c s) :=
  ⟨_, nextWithFlag_eq x r c s,
    fun h => by rw [reg_vf_writeResultAndFlag r c s h, hflag],
    fun h => by rw [reg_target_writeResultAndFlag r c s h, hresult],
    writeResultAndFlag_unchangedBut r c s _ x⟩

/-- Settles O42: two writes of different registers commute, and of two writes of VF the last survives. -/
theorem writePriorityMattersOnlyForVf : Obligations.WritePriorityMattersOnlyForVf :=
  fun r c s => ⟨fun _ hx => s.setReg_comm hx r c, reg_vf_writeResultAndFlag r c s (.inr rfl),
    reg_target_writeResultAndFlag r c s (.inr rfl), fun x => nextWithFlag_eq x r c s⟩

/-! ### Flags and results as numbers (R83 to R88) -/

section
variable (a b : Byte)

theorem flagByte_toNat (f : Bool) : (flagByte f).toNat = f.toNat := by
  cases f <;> rfl

theorem flagByte_decide_toNat (q : Prop) [Decidable q] :
    (flagByte (decide q)).toNat = if q then 1 else 0 := by
  by_cases hq : q <;> simp [hq, flagByte_eq]

theorem carryOut_toNat : (carryOut a b).toNat = if a.toNat + b.toNat > 255 then 1 else 0 :=
  flagByte_decide_toNat _

theorem notBorrow_toNat : (notBorrow a b).toNat = if b.toNat > a.toNat then 0 else 1 := by
  rw [notBorrow, ← decide_not, flagByte_decide_toNat, ite_not]

/-- Bit 0 is the remainder by two. -/
theorem shiftedOutRight_toNat : (shiftedOutRight a).toNat = a.toNat % 2 := by
  rw [shiftedOutRight, flagByte_toNat, BitVec.getLsbD, Nat.toNat_testBit, pow_zero, Nat.div_one]

/-- Bit 7 is the quotient by 128, which is below two for a byte. -/
theorem shiftedOutLeft_toNat : (shiftedOutLeft a).toNat = a.toNat / 128 := by
  rw [shiftedOutLeft, flagByte_toNat, BitVec.getLsbD, Nat.toNat_testBit]
  omega

/-- The difference of two bytes is the one of the integers modulo 256. -/
theorem sub_toNat_intCast : ((a - b).toNat : Int) = ((a.toNat : Int) - b.toNat) % 256 := by
  rw [BitVec.toNat_sub]
  omega

theorem shiftRight_one_toNat : (a >>> 1).toNat = a.toNat / 2 := by
  rw [BitVec.toNat_ushiftRight, Nat.shiftRight_eq_div_pow, pow_one]

theorem shiftLeft_one_toNat : (a <<< 1).toNat = a.toNat * 2 % 256 := by
  rw [BitVec.toNat_shiftLeft, Nat.shiftLeft_eq, pow_one]

end

/-! ### Arithmetic and shifts with a flag (R83 to R87) -/

/-- Settles O37: the sum of two 8-bit words, with the carry. -/
theorem addRegistersSumAndCarry : Obligations.AddRegistersSumAndCarry :=
  fun x _ s => nextWithFlag_writes x s BitVec.toNat (carryOut_toNat _ _) (BitVec.toNat_add _ _)

/-- Settles O38: x[X] - x[Y], with its "not borrow". -/
theorem subDifferenceAndNotBorrow : Obligations.SubDifferenceAndNotBorrow :=
  fun x _ s => nextWithFlag_writes x s (fun v => (v.toNat : Int)) (notBorrow_toNat _ _)
    (sub_toNat_intCast _ _)

/-- Settles O39: SUB with the two operands exchanged. -/
theorem subnDifferenceAndNotBorrow : Obligations.SubnDifferenceAndNotBorrow :=
  fun x _ s => nextWithFlag_writes x s (fun v => (v.toNat : Int)) (notBorrow_toNat _ _)
    (sub_toNat_intCast _ _)

/-- Settles O40: the shift drops bit 0 into VF and looks at no other register. -/
theorem shrHalvesAndDropsBitZero : Obligations.ShrHalvesAndDropsBitZero :=
  fun x _ s => nextWithFlag_writes x s BitVec.toNat (shiftedOutRight_toNat _)
    (shiftRight_one_toNat _)

/-- Settles O41: the shift drops bit 7 into VF and looks at no other register. -/
theorem shlDoublesAndDropsBitSeven : Obligations.ShlDoublesAndDropsBitSeven :=
  fun x _ s => nextWithFlag_writes x s BitVec.toNat (shiftedOutLeft_toNat _)
    (shiftLeft_one_toNat _)

end Sys2Proof.Machine
end

section
/-! PROOFS. 42_address_memory: writes of `I` (R90 to R92), the decimal digits (R93), and the register dump and
load (R94 to R96). -/

namespace Sys2Proof.Machine

/-! ### Writes of `I` (R90 to R92, R94, R95) -/

section
variable (s : State)

theorem setI_unchangedBut_i (a : Addr) : UnchangedBut [.i] [] s (s.setI a) :=
  (UnchangedBut.refl _ _ s).setI (by decide) a

theorem regWide_toNat (r : Reg) : (s.regWide r).toNat = (s.reg r).toNat :=
  BitVec.toNat_setWidth_of_le (by decide)

theorem bumpI_toNat (x : Reg) : (s.bumpI x).i.toNat = (s.i.toNat + x.val + 1) % 65536 := by
  rw [State.bumpI_i, BitVec.toNat_add, BitVec.toNat_ofNat, Nat.add_mod_mod, Nat.add_assoc]

end

/-- Settles O44: each of the three is one write of `I`, whose sums are those of 16-bit words. -/
theorem addressRegisterWrites : Obligations.AddressRegisterWrites := by
  refine fun nnn x s => ⟨⟨_, rfl, zextAddr_toNat nnn, setI_unchangedBut_i s _⟩,
    ⟨_, rfl, ?_, setI_unchangedBut_i s _⟩,
    ⟨_, rfl, BitVec.toNat_ofNat _ _, setI_unchangedBut_i s _⟩⟩
  rw [State.setI_i, BitVec.toNat_add, regWide_toNat]

/-! ### An address outside memory (R40, R110) -/

/-- The bounds check that fails latches the highest address and leaves the rest, whatever was to follow. -/
theorem checkData_latches {kMax : Nat} {i : Instr} {s : State} {body : Answer}
    (h : s.cfg.memSize ≤ s.effAddr kMax) :
    Answers (fun t =>
      t.halt = some ⟨.dataOutOfBounds (s.effAddr kMax), s.pc - 2, some (encode i)⟩ ∧
      UnchangedBut [.halt] [] s t) (checkData kMax i s body) := by
  rw [checkData_of_ge h]
  exact raiseExec_latches _ i s

/-! ### The decimal digits (R93) -/

section
variable {s : State} {a : Nat} {vs : List Byte}

/-- A byte of a stored list, read back. -/
theorem readByte_setMem_writeList (hm : s.mem.wf s.cfg) (ha : a + vs.length ≤ s.cfg.memSize)
    {k : Nat} (hk : k < vs.length) :
    (s.setMem (s.mem.writeList s.cfg a vs)).readByte (a + k) = vs[k] := by
  refine (Memory.read_writeList hm ha (a + k)).trans ?_
  rw [if_pos (Nat.le_add_right a k), Nat.add_sub_cancel_left, List.getElem?_eq_getElem hk,
    Option.getD_some]

/-- A byte outside a stored list, as before the store. -/
theorem readByte_setMem_writeList_other (hm : s.mem.wf s.cfg)
    (ha : a + vs.length ≤ s.cfg.memSize) {b : Nat} (hb : b < a ∨ a + vs.length ≤ b) :
    (s.setMem (s.mem.writeList s.cfg a vs)).readByte b = s.readByte b := by
  refine (Memory.read_writeList hm ha b).trans ?_
  rcases hb with hb | hb
  · rw [if_neg (Nat.not_le.2 hb)]
    rfl
  · rw [if_pos (by omega), List.getElem?_eq_none (by omega)]
    rfl

end

/-- A number that is not above a byte fits a byte: no decimal digit of the byte is lost. -/
theorem toNat_ofNat_of_le_byte {n : Nat} {v : Byte} (h : n ≤ v.toNat) :
    (BitVec.ofNat 8 n).toNat = n :=
  (BitVec.toNat_ofNat n 8).trans (Nat.mod_eq_of_lt (h.trans_lt v.isLt))

/-- Settles O45: with room for three digits they are stored from `I` on and read back; else the check fails. -/
theorem ldBStoresDecimalDigits : Obligations.LdBStoresDecimalDigits := by
  refine fun x s => ⟨fun hm hlt => ?_, fun hge => checkData_latches hge⟩
  have hfit : s.effAddr 0 + (bcdDigits (s.reg x)).length ≤ s.cfg.memSize := hlt
  have hdigit : ∀ k (hk : k < 3),
      (s.setMem (s.mem.writeList s.cfg (s.effAddr 0) (bcdDigits (s.reg x)))).readByte
        (s.effAddr k) = (bcdDigits (s.reg x))[k] :=
    fun k hk => readByte_setMem_writeList hm hfit hk
  refine ⟨_, checkData_of_lt hlt, ?hundreds, ?tens, ?ones,
    fun _ ha => readByte_setMem_writeList_other hm hfit ha,
    (UnchangedBut.refl _ _ s).setMem (by decide) _⟩
  case hundreds =>
    rw [hdigit 0 (by decide)]
    exact toNat_ofNat_of_le_byte (Nat.div_le_self _ _)
  case tens =>
    rw [hdigit 1 (by decide)]
    exact toNat_ofNat_of_le_byte ((Nat.mod_le _ _).trans (Nat.div_le_self _ _))
  case ones =>
    rw [hdigit 2 (by decide)]
    exact toNat_ofNat_of_le_byte (Nat.mod_le _ _)

/-! ### Dump and load (R94, R95) -/

section
variable {s : State} {x : Reg}

/-- A dump of registers that fit leaves every byte outside its range. -/
theorem execDump_keeps_others (hm : s.mem.wf s.cfg) (hx : s.effAddr x.val < s.cfg.memSize) :
    Answers (fun t => ∀ a, a < s.effAddr 0 ∨ s.effAddr x.val < a → t.readByte a = s.readByte a)
      (execDump x s) := by
  refine ⟨_, execDump_of_lt hx, fun a ha => ?_⟩
  refine read_foldl_write_other s.reg hm (effAddr_lt_of_mem_regsUpTo hx) fun k hk => ?_
  have hkx : k.val ≤ x.val := mem_regsUpTo.1 hk
  simp only [State.effAddr] at ha ⊢
  omega

/-- A load of registers that fit writes registers 0 to X, each with the byte at its address, and moves `I`. -/
theorem execLoad_of_lt (hx : s.effAddr x.val < s.cfg.memSize) :
    ∃ v, execLoad x s = .next ((s.setRegs v).bumpI x) ∧ ∀ r, (s.setRegs v).reg r =
      if r ∈ regsUpTo x then s.readByte (s.effAddr r.val) else s.reg r := by
  obtain ⟨v, hv, hr⟩ := foldl_setReg (regsUpTo x) (fun k => s.readByte (s.effAddr k.val)) s
  exact ⟨v, by rw [execLoad, checkData_of_lt hx, hv], hr⟩

end

/-- Settles O46: with room for the registers the dump stores them and moves `I`; else the check fails. -/
theorem dumpStoresRegisters : Obligations.DumpStoresRegisters := by
  refine fun x s => ⟨fun hm hlt => ?_, fun hge => checkData_latches hge⟩
  have ht := execDump_of_lt hlt
  exact ⟨_, ht, (execDump_stores hm hlt).of_next ht, (execDump_keeps_others hm hlt).of_next ht,
    bumpI_toNat _ x, ((UnchangedBut.refl _ _ s).setMem (by decide) _).setI (by decide) _⟩

/-- Settles O47: with room for the range the load fills its registers and moves `I`; else the check fails. -/
theorem loadFillsRegisters : Obligations.LoadFillsRegisters := by
  refine fun x s => ⟨fun hlt => ?_, fun hge => checkData_latches hge⟩
  obtain ⟨v, ht, hv⟩ := execLoad_of_lt hlt
  have hother : ∀ r, r ∉ regsUpTo x → (s.setRegs v).reg r = s.reg r :=
    fun r hr => (hv r).trans (if_neg hr)
  exact ⟨_, ht, fun k hk => (hv k).trans (if_pos (mem_regsUpTo.2 hk)),
    fun k hk => hother k fun hmem => (mem_regsUpTo.1 hmem).not_gt hk,
    bumpI_toNat _ x, ((UnchangedBut.refl _ _ s).setRegs hother).setI (by decide) _⟩

/-! ### A dump, then the load of its range (R96) -/

/-- Settles O48: the load reads at the addresses of the dump, where the dump stored the registers. -/
theorem dumpThenLoadRestores : Obligations.DumpThenLoadRestores := by
  intro x s t u hm hlt ht hcfg hmem hi
  have hcfg_s : u.cfg = s.cfg := hcfg.trans ((exec_sameCfg _ s).of_next ht)
  have haddr : ∀ k, u.effAddr k = s.effAddr k := fun k => by rw [State.effAddr, hi, State.effAddr]
  have hread : ∀ a, u.readByte a = t.readByte a :=
    fun a => by rw [State.readByte, hmem, hcfg, State.readByte]
  have hstored := (execDump_stores hm hlt).of_next ht
  obtain ⟨w, hw, hfill, -⟩ := (loadFillsRegisters x u).1 (by rwa [haddr, hcfg_s])
  refine ⟨w, hw, fun k hk => ?_⟩
  calc w.reg k = u.readByte (u.effAddr k.val) := hfill k hk
    _ = t.readByte (s.effAddr k.val) := by rw [hread, haddr]
    _ = s.reg k := hstored k hk

end Sys2Proof.Machine
end

section
/-! PROOFS. 43_display: the clearing of the screen (R98), and the drawing of a sprite: its faults (R99, R115), the
toggled pixels with their collision (R99, R100), and a sprite drawn twice. -/

namespace Sys2Proof.Machine

/-- Settles O49: CLS writes the buffer only, and the clear buffer has no set pixel. -/
theorem clsClearsEveryPixel : Obligations.ClsClearsEveryPixel :=
  fun s => ⟨_, rfl, fun px py _ => Pixels.get_clear px py,
    (UnchangedBut.refl _ _ s).setPixels (by decide) _⟩

/-! ### The targets of a DRW, in row-major order (R97, R99) -/

/-- The pixels a DRW toggles, as `execDrw` samples them. -/
abbrev State.drwTargets (s : State) (x y : Reg) (n : Nibble) : List (Nat × Nat) :=
  spriteTargets (s.reg x).toNat (s.reg y).toNat (s.spriteRows n.toNat)

/-- Row-major order of pixels: by row, then by column. -/
abbrev rowMajor (t u : Nat × Nat) : Prop := t.2 < u.2 ∨ t.2 = u.2 ∧ t.1 < u.1

theorem rowTargets_rowMajor (px py : Nat) (row : Byte) :
    (rowTargets px py row).Pairwise rowMajor :=
  (List.pairwise_lt_range.filter _).map _ fun _ _ h => .inr ⟨rfl, Nat.add_lt_add_left h px⟩

theorem spriteTargets_rowMajor (rows : List Byte) (px py : Nat) :
    (spriteTargets px py rows).Pairwise rowMajor := by
  induction rows generalizing py with
  | nil => exact .nil
  | cons row rows ih =>
    refine List.pairwise_append.2 ⟨rowTargets_rowMajor px py row, ih _, fun t ht u hu => ?_⟩
    obtain ⟨c, -, -, rfl⟩ := mem_rowTargets.1 ht
    obtain ⟨r, d, -, -, -, rfl⟩ := mem_spriteTargets.1 hu
    exact .inl (by omega)

/-- In a list sorted by `R`, the search finds the element with the property that no other with it precedes. -/
theorem find?_eq_some_of_pairwise {α : Type} {R : α → α → Prop} {p : α → Bool} {l : List α} {a : α}
    (hl : l.Pairwise R) (ha : a ∈ l) (hpa : p a = true) (hfirst : ∀ b ∈ l, p b = true → ¬R b a) :
    l.find? p = some a := by
  induction l with
  | nil => exact absurd ha List.not_mem_nil
  | cons b l ih =>
    rw [List.pairwise_cons] at hl
    rw [List.forall_mem_cons] at hfirst
    rcases List.mem_cons.1 ha with rfl | ha
    · exact List.find?_cons_of_pos hpa
    · rw [List.find?_cons_of_neg fun hpb => hfirst.1 hpb (hl.1 a ha)]
      exact ih hl.2 ha hfirst.2

section
variable {s : State} {x y : Reg} {n : Nibble}

theorem mem_drwTargets_of_offending {r c : Nat} (h : s.offending x y n r c) :
    ((s.reg x).toNat + c, (s.reg y).toNat + r) ∈ s.drwTargets x y n := by
  obtain ⟨hr, hc, hbit, -⟩ := h
  exact mem_targets_iff_covers.2 ⟨r, c, hr, hc, hbit, rfl, rfl⟩

theorem offending_of_mem_drwTargets {t : Nat × Nat} (ht : t ∈ s.drwTargets x y n)
    (hoff : ¬onScreen s.cfg t.1 t.2) :
    ∃ r c, s.offending x y n r c ∧ t = ((s.reg x).toNat + c, (s.reg y).toNat + r) := by
  obtain ⟨px, py⟩ := t
  obtain ⟨r, c, hr, hc, hbit, rfl, rfl⟩ := mem_targets_iff_covers.1 ht
  exact ⟨r, c, ⟨hr, hc, hbit, hoff⟩, rfl⟩

theorem onScreen_of_not_offending (h : ∀ r c, ¬s.offending x y n r c) :
    ∀ t ∈ s.drwTargets x y n, onScreen s.cfg t.1 t.2 := by
  intro t ht
  by_contra hoff
  obtain ⟨r, c, hrc, -⟩ := offending_of_mem_drwTargets ht hoff
  exact h r c hrc

/-- The pixel check meets the first offending sprite bit, since it goes through the bits in row-major order. -/
theorem find?_drwTargets_of_offending {r c : Nat} (h : s.offending x y n r c)
    (hfirst : ∀ r' c', s.offending x y n r' c' → r < r' ∨ r = r' ∧ c ≤ c') :
    ((s.drwTargets x y n).find? fun t => !decide (onScreen s.cfg t.1 t.2)) =
      some ((s.reg x).toNat + c, (s.reg y).toNat + r) := by
  have ⟨_, _, _, hoff⟩ := h
  refine find?_eq_some_of_pairwise (spriteTargets_rowMajor _ _ _) (mem_drwTargets_of_offending h)
    (by rwa [Bool.not_eq_true', decide_eq_false_iff_not]) fun u hu hoffu hbefore => ?_
  rw [Bool.not_eq_true', decide_eq_false_iff_not] at hoffu
  obtain ⟨r', c', hrc', rfl⟩ := offending_of_mem_drwTargets hu hoffu
  have := hfirst r' c' hrc'
  simp only [rowMajor] at hbefore
  omega

/-! ### DRW, each case of its two checks (R99, R115) -/

theorem execDrw_of_not_rowsInMemory (h : ¬s.rowsInMemory n) :
    execDrw x y n s = raiseExec (.dataOutOfBounds (s.effAddr (n.toNat - 1))) (.drw x y n) s := by
  rw [not_or, Nat.not_lt] at h
  obtain ⟨hrows, hge⟩ := h
  rw [execDrw, if_neg hrows, checkData_of_ge hge]

theorem execDrw_of_rowsInMemory (h : s.rowsInMemory n) :
    execDrw x y n s = drawSprite (s.drwTargets x y n) (.drw x y n) s := by
  by_cases hn : n.toNat = 0
  · exact if_pos hn
  · exact (if_neg hn).trans (checkData_of_lt (h.resolve_left hn))

end

/-- Settles O51: the memory check comes first, and the pixel check goes through the bits in row-major order. -/
theorem drwFaultsBeforeDrawing : Obligations.DrwFaultsBeforeDrawing := by
  refine fun x y n s => ⟨fun hmem => ?_, fun hmem r c hoff hfirst => ?_⟩
  · show Answers _ (execDrw x y n s)
    rw [execDrw_of_not_rowsInMemory hmem]
    exact raiseExec_latches _ _ s
  · show Answers _ (execDrw x y n s)
    rw [execDrw_of_rowsInMemory hmem,
      drawSprite_of_offScreen (find?_drwTargets_of_offending hoff hfirst)]
    exact raiseExec_latches _ _ s

/-! ### The state a drawing leaves (R99, R100) -/

/-- The state with the targets drawn and the collision in VF. -/
def State.drawn (s : State) (l : List (Nat × Nat)) : State :=
  (s.setPixels (drawTargets s.pixels l).1).setReg vf (flagByte (drawTargets s.pixels l).2)

section
variable {s t : State} {l : List (Nat × Nat)} {x y : Reg} {n : Nibble}

theorem State.drawn_unchangedBut (s : State) (l : List (Nat × Nat)) :
    UnchangedBut [.pixels] [vf] s (s.drawn l) :=
  ((UnchangedBut.refl _ _ s).setPixels (by decide) _).setReg (by decide) _

/-- Drawing toggles exactly the targets. -/
theorem State.pixel_drawn (hl : l.Nodup) (px py : Nat) :
    (s.drawn l).pixel px py = if (px, py) ∈ l then !s.pixel px py else s.pixel px py :=
  (foldl_drawPixel hl (s.pixels, false) px py).1

/-- VF tells a collision. -/
theorem State.reg_vf_drawn (hl : l.Nodup) :
    (s.drawn l).reg vf = if ∃ t ∈ l, s.pixel t.1 t.2 = true then 1 else 0 := by
  have hcollision : (drawTargets s.pixels l).2 = true ↔ ∃ t ∈ l, s.pixel t.1 t.2 = true :=
    (foldl_drawPixel hl (s.pixels, false) 0 0).2.trans (or_iff_right Bool.false_ne_true)
  rw [State.drawn, State.reg_setReg_same, flagByte_eq]
  exact if_congr hcollision rfl rfl

theorem State.reg_vf_drawn_eq_one_iff (hl : l.Nodup) :
    (s.drawn l).reg vf = 1 ↔ ∃ t ∈ l, s.pixel t.1 t.2 = true := by
  simp [State.reg_vf_drawn hl]

theorem drawSprite_eq_drawn (h : ∀ t ∈ l, onScreen s.cfg t.1 t.2) (i : Instr) :
    drawSprite l i s = .next (s.drawn l) :=
  drawSprite_of_onScreen (List.find?_eq_none.2 fun t ht => by simpa using h t ht)

/-- A DRW that leaves CORE running is one whose checks passed: it drew its targets. -/
theorem drawn_of_execDrw_running (h : execDrw x y n s = .next t) (ht : t.running) :
    s.rowsInMemory n ∧ (∀ u ∈ s.drwTargets x y n, onScreen s.cfg u.1 u.2) ∧
      t = s.drawn (s.drwTargets x y n) := by
  by_cases hmem : s.rowsInMemory n
  · rw [execDrw_of_rowsInMemory hmem] at h
    cases hfind : (s.drwTargets x y n).find? fun u => !decide (onScreen s.cfg u.1 u.2) with
    | some u =>
      rw [drawSprite_of_offScreen hfind] at h
      cases h
      cases ht
    | none =>
      have hon := onScreen_of_find?_eq_none hfind
      rw [drawSprite_eq_drawn hon] at h
      cases h
      exact ⟨hmem, hon, rfl⟩
  · rw [execDrw_of_not_rowsInMemory hmem] at h
    cases h
    cases ht

end

/-- Settles O50: the checks passed, so the targets are drawn, and they are the pixels under a set bit. -/
theorem drwTogglesSpritePixels : Obligations.DrwTogglesSpritePixels := by
  intro x y n s hmem hoff
  have hnodup : (s.drwTargets x y n).Nodup := spriteTargets_nodup _ _ _
  have hexec : execDrw x y n s = .next (s.drawn (s.drwTargets x y n)) :=
    (execDrw_of_rowsInMemory hmem).trans (drawSprite_eq_drawn (onScreen_of_not_offending hoff) _)
  refine ⟨_, hexec, fun px py hcov => ?toggled, fun px py hcov => ?kept, fun hset => ?collision,
    fun hclear => ?noCollision, s.drawn_unchangedBut _⟩
  case toggled => rw [State.pixel_drawn hnodup, if_pos (mem_targets_iff_covers.2 hcov)]
  case kept => rw [State.pixel_drawn hnodup, if_neg (mt mem_targets_iff_covers.1 hcov)]
  case collision =>
    obtain ⟨px, py, hcov, hpixel⟩ := hset
    exact (State.reg_vf_drawn_eq_one_iff hnodup).2 ⟨(px, py), mem_targets_iff_covers.2 hcov, hpixel⟩
  case noCollision =>
    refine (State.reg_vf_drawn hnodup).trans (if_neg fun hset => ?_)
    obtain ⟨⟨px, py⟩, htarget, hpixel⟩ := hset
    rw [hclear px py (mem_targets_iff_covers.1 htarget)] at hpixel
    cases hpixel

/-! ### The same sprite drawn twice -/

/-- The rows of a sprite are read from memory under the configuration, at `I`. -/
theorem State.spriteRows_congr {s u : State} (hcfg : u.cfg = s.cfg) (hmem : u.mem = s.mem)
    (hi : u.i = s.i) (k : Nat) : u.spriteRows k = s.spriteRows k := by
  simp only [State.spriteRows, State.readByte, State.effAddr, hcfg, hmem, hi]

/-- Settles O52: both calls draw the same targets, each of which is toggled twice; the second call meets a set
pixel where the first met a clear one. -/
theorem drawingTwiceErases : Obligations.DrawingTwiceErases := by
  intro x y n s t u v _ ht htrun hurun hcfg hpixels hmem hi hx hy hv
  have hnodup : (s.drwTargets x y n).Nodup := spriteTargets_nodup _ _ _
  obtain ⟨hrows, hon, rfl⟩ := drawn_of_execDrw_running ht htrun
  replace hcfg : u.cfg = s.cfg := hcfg
  have hpixel : ∀ px py, u.pixel px py = (s.drawn (s.drwTargets x y n)).pixel px py :=
    fun px py => congrArg (Pixels.get · px py) hpixels
  have htargets : u.drwTargets x y n = s.drwTargets x y n := by
    rw [State.drwTargets, hx, hy, State.spriteRows_congr hcfg hmem hi]
  have hurows : u.rowsInMemory n := by
    rwa [State.rowsInMemory, State.effAddr, hi, hcfg]
  have hdraw : execDrw x y n u = .next (u.drawn (s.drwTargets x y n)) := by
    rw [execDrw_of_rowsInMemory hurows, htargets]
    exact drawSprite_eq_drawn (by rwa [hcfg]) _
  obtain rfl : u.drawn (s.drwTargets x y n) = v := by
    simpa using hdraw.symm.trans hv
  refine ⟨hurun, fun px py => ?pixels, ?flag⟩
  case pixels =>
    rw [State.pixel_drawn hnodup, hpixel, State.pixel_drawn hnodup]
    split <;> simp
  case flag =>
    have hclear : ∀ c ∈ s.drwTargets x y n, (u.pixel c.1 c.2 = true ↔ s.pixel c.1 c.2 = false) := by
      intro c hc
      rw [hpixel, State.pixel_drawn hnodup, if_pos hc, Bool.not_eq_true']
    calc (u.drawn (s.drwTargets x y n)).reg vf = 1
        ↔ ∃ c ∈ s.drwTargets x y n, u.pixel c.1 c.2 = true := State.reg_vf_drawn_eq_one_iff hnodup
      _ ↔ ∃ c ∈ s.drwTargets x y n, s.pixel c.1 c.2 = false :=
        exists_congr fun c => and_congr_right (hclear c)
      _ ↔ ∃ px py, s.covers x y n px py ∧ s.pixel px py = false :=
        by simp only [Prod.exists, mem_targets_iff_covers]

end Sys2Proof.Machine
end

section
/-! PROOFS. 44_keys_timers: the key skips (R101, R102), the key wait (R104), the timer transfers (R103, R105)
and the inert LD ST (R106). -/

namespace Sys2Proof.Machine

/-! ### A key named by a register (R101, R102, R114) -/

section
variable {x : Reg} {i : Instr} {s : State} {body : Key → Answer}

/-- Where the register holds the index of the key `k`, that is the key named. -/
theorem withKey_of_key {k : Key} (hk : (s.reg x).toNat = k.val) :
    withKey x i s body = body k := by
  have hlt : (s.reg x).toNat < 16 := hk ▸ k.isLt
  rw [withKey_of_lt hlt, show (⟨(s.reg x).toNat, hlt⟩ : Key) = k from Fin.ext hk]

/-- A register that names no key latches its value and leaves the rest, whatever was to follow. -/
theorem withKey_latches (h : (s.reg x).toNat > 15) :
    Answers (fun t =>
      t.halt = some ⟨.keyIndexOutOfRange (s.reg x), s.pc - 2, some (encode i)⟩ ∧
      UnchangedBut [.halt] [] s t) (withKey x i s body) := by
  rw [withKey_of_ge (Nat.not_lt.2 h)]
  exact raiseExec_latches _ i s

end

theorem exec_skp (x : Reg) (s : State) :
    exec (.skp x) s = withKey x (.skp x) s fun k => skipIf (s.key k) s := rfl

theorem exec_sknp (x : Reg) (s : State) :
    exec (.sknp x) s = withKey x (.sknp x) s fun k => skipIf (!s.key k) s := rfl

/-- Settles O53: SKP tests the key that the register names, SKNP its negation; above 15 there is no key to
test. -/
theorem keySkips : Obligations.KeySkips := by
  intro x s
  rw [exec_skp, exec_sknp]
  refine ⟨fun k hk => ?_, fun h => ⟨withKey_latches h, withKey_latches h⟩⟩
  rw [withKey_of_key hk, withKey_of_key hk]
  exact ⟨skipIf_of_iff s Iff.rfl, skipIf_of_iff_not s Bool.not_iff_not⟩

/-! ### The key wait (R104, R136) -/

/-- A number that fits a byte reads back from the register it was written to. -/
theorem reg_setReg_ofNat_toNat {n : Nat} (h : n < 256) (s : State) (x : Reg) :
    ((s.setReg x (BitVec.ofNat 8 n)).reg x).toNat = n := by
  rw [State.reg_setReg_same, BitVec.toNat_ofNat, Nat.mod_eq_of_lt h]

theorem execLdVxK_of_some {s : State} {k : Key} (h : s.scanKeys = some k) (x : Reg) :
    execLdVxK x s = .next (s.setReg x (BitVec.ofNat 8 k.val)) := by
  simp only [execLdVxK, h]

theorem execLdVxK_of_none {s : State} (h : s.scanKeys = none) (x : Reg) :
    execLdVxK x s = .next s.rewindPc := by
  simp only [execLdVxK, h]

/-- Settles O54: the scan finds the highest pressed key, or none; the one writes `x[X]`, the other `pc`. -/
theorem keyWaitTakesHighestKey : Obligations.KeyWaitTakesHighestKey := by
  refine fun x s => ⟨fun k hk habove => ?_, fun hnone => ?_⟩
  · exact ⟨_, execLdVxK_of_some (State.scanKeys_some hk habove) x,
      reg_setReg_ofNat_toNat (by omega) s x, setReg_unchangedBut_reg s x _⟩
  · exact ⟨_, execLdVxK_of_none (State.scanKeys_none hnone) x, s.rewindPc_pc,
      setPc_unchangedBut_pc s _⟩

/-- The rewind of the key wait undoes the advance of the fetch. -/
@[simp] theorem State.rewindPc_advancePc (s : State) : s.advancePc.rewindPc = s :=
  congrArg s.setPc (BitVec.add_sub_cancel s.pc 2)

/-- Settles O55: the fetch changes no key, and the rewind takes back its advance. -/
theorem keyWaitWithoutKeyIsStill : Obligations.KeyWaitWithoutKeyIsStill := by
  intro s x hs hpc hd hnone
  have hscan : s.advancePc.scanKeys = none := State.scanKeys_none hnone
  calc step s = execLdVxK x s.advancePc := step_of_instr hs hpc hd
    _ = .next s.advancePc.rewindPc := execLdVxK_of_none hscan x
    _ = .next s := by rw [State.rewindPc_advancePc]

/-! ### The timer (R103, R105) -/

/-- Settles O56: one write of `x[X]`, and a timer of at most 255 fits it. -/
theorem ldVxDtReadsTimer : Obligations.LdVxDtReadsTimer :=
  fun x s => ⟨_, rfl, fun hdt => reg_setReg_ofNat_toNat (Nat.lt_succ_of_le hdt) s x,
    setReg_unchangedBut_reg s x _⟩

/-- A timer of at least 8 bits holds every byte. -/
theorem timerValue_toNat {c : Config} (h : 8 ≤ c.timerBits) (v : Byte) :
    timerValue c v.toNat = v.toNat :=
  Nat.mod_eq_of_lt (v.isLt.trans_le (Nat.pow_le_pow_right (by decide) h))

/-- Settles O57: one write of the timer. -/
theorem ldDtWritesTimer : Obligations.LdDtWritesTimer :=
  fun x s => ⟨_, rfl, fun hbits => timerValue_toNat hbits (s.reg x),
    (UnchangedBut.refl _ _ s).setDt (by decide) _⟩

/-! ### LD ST (R106) -/

/-- The output `unknown_op` of a step over an instruction shows nothing (R63). -/
theorem unknownOp_of_instr {s : State} {i : Instr} (hs : s.running)
    (hpc : s.pc.toNat + 1 < s.cfg.memSize) (hd : decode s.wordAtPc = .instr i) :
    s.unknownOp = none := by
  simp only [State.unknownOp, hs, fetchNext_of_lt hpc, hd]

/-- Settles O58: what the step changes is the advance of the fetch. -/
theorem ldStIsInert : Obligations.LdStIsInert :=
  ⟨fun _ _ => rfl, fun s _ hs hpc hd =>
    ⟨unknownOp_of_instr hs hpc hd, s.advancePc, step_of_instr hs hpc hd, s.advancePc_pc,
      setPc_unchangedBut_pc s _⟩⟩

end Sys2Proof.Machine
end

section
/-! PROOFS. 60_exceptions: the HOST's tick and key events (R121, R123), which step faults and what the fault leaves
(R108 to R115), the halted state (R116) and the outputs that show the latch (R32). -/

namespace Sys2Proof.Machine

/-! ### What may change: a write of a key flag, or of the latch -/

section
variable {parts : List Part} {written : List Reg} {s t : State}

theorem UnchangedBut.setKey (h : UnchangedBut parts written s t) (hq : .keys ∈ parts) (k : Key)
    (b : Bool) : UnchangedBut parts written s (t.setKey k b) :=
  h.write hq (fun _ => rfl) fun p hp => by cases p <;> simp_all [agreeOn]

theorem UnchangedBut.setHalt (h : UnchangedBut parts written s t) (hq : .halt ∈ parts)
    (r : Option FaultRecord) : UnchangedBut parts written s (t.setHalt r) :=
  h.write hq (fun _ => rfl) fun p hp => by cases p <;> simp_all [agreeOn]

end

/-! ### The tick and the key events (R121, R123) -/

/-- A tick is one write of the timer: at 0 the truncated subtraction writes the 0 that stands there. -/
theorem decrementTimer_eq (s : State) : decrementTimer s = s.setDt (s.dt - 1) := by
  unfold decrementTimer
  split
  · next hzero => rw [hzero]; exact congrArg s.setDt hzero
  · rfl

/-- Settles O6: one write of the timer. -/
theorem decrementTimerFloorsAtZero : Obligations.DecrementTimerFloorsAtZero := by
  intro s
  rw [decrementTimer_eq]
  exact ⟨s.setDt_dt _, (UnchangedBut.refl _ _ s).setDt (by decide) _⟩

/-- A write of one key flag reads back, and leaves the other keys and every other part. -/
theorem setKey_changes_one_flag (k : Key) (b : Bool) (s : State) :
    (s.setKey k b).key k = b ∧ (∀ j, j ≠ k → (s.setKey k b).key j = s.key j) ∧
      UnchangedBut [.keys] [] s (s.setKey k b) :=
  ⟨(s.key_setKey k k b).trans (if_pos rfl), fun j hj => (s.key_setKey k j b).trans (if_neg hj),
    (UnchangedBut.refl _ _ s).setKey (by decide) k b⟩

/-- Settles O7: both events are a write of the flag of `k`. -/
theorem keyEventsChangeOneFlag : Obligations.KeyEventsChangeOneFlag :=
  fun k s => ⟨setKey_changes_one_flag k true s, setKey_changes_one_flag k false s⟩

/-! ### The outputs that show the latch (R32, R108) -/

theorem Fault.code_ne_zero (f : Fault) : f.code ≠ 0 := by
  cases f <;> simp [Fault.code]

section
variable {s : State}

theorem faultCode_of_halt {r : FaultRecord} (h : s.halt = some r) : s.faultCode = r.fault.code := by
  rw [State.faultCode, h]

theorem faultCode_eq_zero_iff : s.faultCode = 0 ↔ s.running := by
  refine ⟨fun hcode => ?_, fun hs => by rw [State.faultCode, hs]⟩
  cases hs : s.halt with
  | none => exact hs
  | some r => exact absurd ((faultCode_of_halt hs).symm.trans hcode) r.fault.code_ne_zero

end

/-- Settles O20: no fault has the code 0, and each code is read off the table. -/
theorem faultCodesOfTable : Obligations.FaultCodesOfTable := by
  refine ⟨fun _ => faultCode_eq_zero_iff, fun s r hr => ?_⟩
  rw [faultCode_of_halt hr]
  refine ⟨fun h => ?_, fun _ h => ?_, fun h => ?_, fun h => ?_, fun _ _ h => ?_, fun _ h => ?_⟩ <;>
    rw [h] <;> rfl

/-! ### The halted state (R116) -/

section
variable {s : State}

theorem step_of_failed (h : s.failed) : step s = .next s := by
  rcases step_cases s with ⟨-, hstep⟩ | ⟨hs, -⟩ | ⟨hs, -⟩ | ⟨hs, -⟩
  · exact hstep
  all_goals exact absurd hs h

/-- No transaction but a load of an image writes the latch of a halted machine. -/
theorem transact_keeps_halt {x : Transaction} {t : State} (h : s.failed)
    (ht : transact x s = .next t) : t.halt = s.halt ∨ ∃ image, x = .initReq image := by
  rcases transact_cases ht with ⟨-, hstep⟩ | ⟨image, rfl, -⟩ | ⟨-, rfl⟩ | ⟨k, b, -, rfl⟩
  · rw [step_of_failed h] at hstep
    cases hstep
    exact .inl rfl
  · exact .inr ⟨image, rfl⟩
  · rw [decrementTimer_eq]
    exact .inl (s.setDt_halt _)
  · exact .inl (s.setKey_halt k b)

end

/-- Settles O8: the outputs read the latch, and the transactions by their cases. -/
theorem haltedOnlyInitializeLeaves : Obligations.HaltedOnlyInitializeLeaves := by
  intro s r hr
  have hfailed : s.failed := by simp [State.failed, hr]
  refine ⟨step_of_failed hfailed, ?haltOut, faultCode_of_halt hr, ?faultPc, ?faultWord, rfl,
    fun k => ⟨rfl, rfl⟩, fun x t ht => hr ▸ transact_keeps_halt hfailed ht⟩
  case haltOut => rw [State.haltOut, hr]; rfl
  case faultPc => rw [State.faultPc, hr]; rfl
  case faultWord => rw [State.faultWord, hr]; rfl

/-! ### Every step answers a next state (R112, R116) -/

theorem Answers.exists_next {P : State → Prop} {a : Answer} (h : Answers P a) :
    ∃ t, a = .next t := by
  obtain ⟨t, ht, -⟩ := h
  exact ⟨t, ht⟩

/-- Settles O17: the case analyses of the step and of the instructions that show the configuration to stay (R7)
find a next state in every case. -/
theorem everyStepAnswersNext : Obligations.EveryStepAnswersNext :=
  ⟨fun s => (step_sameCfg s).exists_next, fun i s => (exec_sameCfg i s).exists_next⟩

/-! ### An answer that faults exactly under a condition (R108) -/

/-- Under the condition `c` the answer is a fault that the table lists for the instruction `i`, and nothing else
is done; otherwise the answer leaves CORE running. -/
def FaultsIff (c : Prop) (i : Instr) (s : State) (a : Answer) : Prop :=
  (c ∧ ∃ f : Fault, f.raisedBy i = true ∧ a = raiseExec f i s) ∨ (¬c ∧ Answers State.running a)

section
variable {c : Prop} {i : Instr} {s : State}

theorem faultsIff_raiseExec (hc : c) {f : Fault} (hf : f.raisedBy i = true) :
    FaultsIff c i s (raiseExec f i s) :=
  .inl ⟨hc, f, hf, rfl⟩

theorem faultsIff_of_running {a : Answer} (hc : ¬c) (ha : Answers State.running a) :
    FaultsIff c i s a :=
  .inr ⟨hc, ha⟩

theorem FaultsIff.failed_iff {a : Answer} {t : State} (h : FaultsIff c i s a) (ht : a = .next t) :
    t.failed ↔ c := by
  rcases h with ⟨hc, f, -, ha⟩ | ⟨hc, ha⟩
  · cases ha.symm.trans ht
    exact iff_of_true (Option.some_ne_none _) hc
  · exact iff_of_false (fun hfailed => hfailed (ha.of_next ht)) hc

/-- A failed state is the one before with a fault of the instruction in the latch. -/
theorem FaultsIff.exists_raise {a : Answer} {t : State} (h : FaultsIff c i s a) (ht : a = .next t)
    (hfailed : t.failed) :
    ∃ f : Fault, f.raisedBy i = true ∧ t = s.raise f (s.pc - 2) (some (encode i)) := by
  rcases h with ⟨-, f, hf, ha⟩ | ⟨-, ha⟩
  · cases ha.symm.trans ht
    exact ⟨f, hf, rfl⟩
  · exact absurd (ha.of_next ht) hfailed

/-! ### Which instructions fault (R108): shared operations -/

theorem skipIf_running (hs : s.running) (b : Bool) : Answers State.running (skipIf b s) :=
  ⟨_, skipIf_eq b s, hs⟩

theorem nextWithFlag_running (hs : s.running) (x : Reg) (r f : Byte) :
    Answers State.running (nextWithFlag x r f s) := by
  obtain ⟨v, hv⟩ := writeResultAndFlag_eq s.cfg.vfWritePriority x r f s
  rw [nextWithFlag_eq, hv, answers_next]
  exact hs

theorem checkData_faultsIff {kMax : Nat} {body : Answer}
    (hi : ∀ a, (Fault.dataOutOfBounds a).raisedBy i = true)
    (hbody : s.effAddr kMax < s.cfg.memSize → Answers State.running body) :
    FaultsIff (s.cfg.memSize ≤ s.effAddr kMax) i s (checkData kMax i s body) := by
  rcases Nat.lt_or_ge (s.effAddr kMax) s.cfg.memSize with hlt | hge
  · rw [checkData_of_lt hlt]
    exact faultsIff_of_running (Nat.not_le.2 hlt) (hbody hlt)
  · rw [checkData_of_ge hge]
    exact faultsIff_raiseExec hge (hi _)

theorem withKey_skipIf_faultsIff (hs : s.running) {x : Reg}
    (hi : (Fault.keyIndexOutOfRange (s.reg x)).raisedBy i = true) (b : Key → Bool) :
    FaultsIff ((s.reg x).toNat > 15) i s (withKey x i s fun k => skipIf (b k) s) := by
  by_cases hlt : (s.reg x).toNat < 16
  · rw [withKey_of_lt hlt]
    exact faultsIff_of_running (by omega) (skipIf_running hs _)
  · rw [withKey_of_ge hlt]
    exact faultsIff_raiseExec (Nat.not_lt.1 hlt) hi

/-! ### Which instructions fault (R108): instructions -/

theorem execRet_faultsIff (hs : s.running) :
    FaultsIff (s.stack.length = 0) .ret s (execRet s) := by
  cases hstack : s.stack with
  | nil =>
    rw [execRet_of_nil hstack]
    exact faultsIff_raiseExec rfl rfl
  | cons a rest =>
    rw [execRet_of_cons hstack]
    exact faultsIff_of_running (Nat.succ_ne_zero _) (answers_next.2 hs)

theorem execCall_faultsIff (hs : s.running) (nnn : Addr12) :
    FaultsIff (s.cfg.stackDepth ≤ s.stack.length) (.call nnn) s (execCall nnn s) := by
  rcases Nat.lt_or_ge s.stack.length s.cfg.stackDepth with hlt | hge
  · rw [execCall_of_lt hlt]
    exact faultsIff_of_running (Nat.not_le.2 hlt) (answers_next.2 hs)
  · rw [execCall_of_ge hge]
    exact faultsIff_raiseExec hge rfl

/-- The pixel check stops at a target outside the buffer, which is that of an offending bit, or finds none. -/
theorem drawSprite_faultsIff (hs : s.running) (x y : Reg) (n : Nibble) :
    FaultsIff (∃ r c, s.offending x y n r c) (.drw x y n) s
      (drawSprite (s.drwTargets x y n) (.drw x y n) s) := by
  cases hfind : (s.drwTargets x y n).find? fun u => !decide (onScreen s.cfg u.1 u.2) with
  | some u =>
    have hoff := List.find?_some hfind
    rw [Bool.not_eq_true', decide_eq_false_iff_not] at hoff
    obtain ⟨r, c, hrc, -⟩ := offending_of_mem_drwTargets (List.mem_of_find?_eq_some hfind) hoff
    rw [drawSprite_of_offScreen hfind]
    exact faultsIff_raiseExec ⟨r, c, hrc⟩ rfl
  | none =>
    have hon := onScreen_of_find?_eq_none hfind
    rw [drawSprite_eq_drawn hon]
    refine faultsIff_of_running ?_ (answers_next.2 hs)
    rintro ⟨r, c, hrc⟩
    have ⟨_, _, _, hoff⟩ := hrc
    exact hoff (hon _ (mem_drwTargets_of_offending hrc))

theorem execDrw_faultsIff (hs : s.running) (x y : Reg) (n : Nibble) :
    FaultsIff (¬s.rowsInMemory n ∨ ∃ r c, s.offending x y n r c) (.drw x y n) s
      (execDrw x y n s) := by
  by_cases hmem : s.rowsInMemory n
  · rw [execDrw_of_rowsInMemory hmem, or_iff_right (not_not.2 hmem)]
    exact drawSprite_faultsIff hs x y n
  · rw [execDrw_of_not_rowsInMemory hmem]
    exact faultsIff_raiseExec (.inl hmem) rfl

theorem execLdVxK_running (hs : s.running) (x : Reg) : Answers State.running (execLdVxK x s) :=
  answers_execLdVxK (fun _ _ => hs) fun _ => hs

theorem execDump_faultsIff (hs : s.running) (x : Reg) :
    FaultsIff (s.cfg.memSize ≤ s.effAddr x.val) (.dump x) s (execDump x s) :=
  checkData_faultsIff (fun _ => rfl) fun _ => by
    rw [foldl_writeByte, answers_next]
    exact hs

theorem execLoad_faultsIff (hs : s.running) (x : Reg) :
    FaultsIff (s.cfg.memSize ≤ s.effAddr x.val) (.load x) s (execLoad x s) := by
  obtain ⟨v, hv, -⟩ := foldl_setReg (regsUpTo x) (fun k => s.readByte (s.effAddr k.val)) s
  refine checkData_faultsIff (fun _ => rfl) fun _ => ?_
  rw [hv, answers_next]
  exact hs

/-- Every instruction of a running machine faults exactly under its condition of the table: the rows that the
table names by their lemma, the others because they have no condition and do not write the latch. -/
theorem exec_faultsIff (hs : s.running) (i : Instr) :
    FaultsIff (faultCondition i s) i s (exec i s) := by
  cases i with
  | ret => exact execRet_faultsIff hs
  | call nnn => exact execCall_faultsIff hs nnn
  | drw x y n => exact execDrw_faultsIff hs x y n
  | skp => exact withKey_skipIf_faultsIff hs rfl s.key
  | sknp => exact withKey_skipIf_faultsIff hs rfl fun k => !s.key k
  | ldB => exact checkData_faultsIff (fun _ => rfl) fun _ => answers_next.2 hs
  | dump x => exact execDump_faultsIff hs x
  | load x => exact execLoad_faultsIff hs x
  | seImm | sneImm | seReg | sneReg => exact faultsIff_of_running id (skipIf_running hs _)
  | addReg | sub | shr | subn | shl =>
    exact faultsIff_of_running id (nextWithFlag_running hs _ _ _)
  | ldVxK x => exact faultsIff_of_running id (execLdVxK_running hs x)
  | cls | jp | ldImm | addImm | ldReg | or | and | xor | ldI | jpV0 | rnd | ldVxDt | ldDtVx | ldStVx
  | addI | ldF => exact faultsIff_of_running id (answers_next.2 hs)

end

/-- Settles O19: both clauses are read off the case analysis of `exec_faultsIff`. -/
theorem faultsExactlyOnTableConditions : Obligations.FaultsExactlyOnTableConditions := by
  intro i s t hs ht
  have hfaults := exec_faultsIff hs i
  refine ⟨hfaults.failed_iff ht, fun r hr => ?_⟩
  obtain ⟨f, hf, rfl⟩ := hfaults.exists_raise ht (by simp [State.failed, hr])
  cases hr
  exact hf

/-! ### Faults are precise (R112) -/

/-- The fault of the fetch is the one that no instruction raises (R109). -/
theorem Fault.ne_fetchOutOfBounds_of_raisedBy {f : Fault} {i : Instr} (hf : f.raisedBy i = true) :
    f ≠ .fetchOutOfBounds := by
  rintro rfl
  simp [Fault.raisedBy] at hf

/-- Settles O18: of the four cases of a step, the fetch fault and an instruction that faults. The latter latches
`pc` two bytes back from where the fetch left it, and the word that was fetched, since encoding gives it back. -/
theorem faultsArePrecise : Obligations.FaultsArePrecise := by
  intro s t hs ht hfailed
  rcases step_cases s with ⟨hf, -⟩ | ⟨-, -, hstep⟩ | ⟨-, -, -, hstep⟩ | ⟨-, -, i, hdecode, hstep⟩
  · exact absurd hs hf
  · cases hstep.symm.trans ht
    exact ⟨(UnchangedBut.raise s _ _ _).mono (by simp) (by simp), _, .inl ⟨rfl, rfl, rfl⟩⟩
  · cases hstep.symm.trans ht
    exact absurd hs hfailed
  · have hadvanced : s.advancePc.running := hs
    obtain ⟨f, hf, rfl⟩ := (exec_faultsIff hadvanced i).exists_raise (hstep.symm.trans ht) hfailed
    have hpc : s.advancePc.pc - 2 = s.pc := BitVec.add_sub_cancel s.pc 2
    rw [hpc, encode_of_decode hdecode]
    have hframe := ((UnchangedBut.refl [.halt, .pc] [] s).setPc (by decide) (s.pc + 2)).setHalt
      (by decide) (some ⟨f, s.pc, some s.wordAtPc⟩)
    exact ⟨hframe, f, .inr ⟨Fault.ne_fetchOutOfBounds_of_raisedBy hf, rfl, rfl⟩⟩

end Sys2Proof.Machine
end

section
/-! PROOFS. 70_reset_and_hazards: what `initialize` builds (R128 to R131), the first fetch after it (R133), and the
jump to itself (R141). -/

namespace Sys2Proof.Machine

/-! ### The two answers of `initialize` (R129, R131) -/

section
variable {s : State} {image : List Byte}

theorem initRequest_of_fits (h : image.length ≤ s.cfg.memSize - s.cfg.programStart) :
    initRequest image s = (.ok, s.loadImage image) :=
  if_neg (Nat.not_lt.2 h)

theorem initRequest_of_tooLong (h : s.cfg.memSize - s.cfg.programStart < image.length) :
    initRequest image s = (.loadError, s) :=
  if_pos h

/-! ### Memory after `initialize` (R128, R130) -/

/-- The highest address of an image that fits is in memory. -/
theorem image_end_le_memSize (hc : s.cfg.Valid)
    (hfits : image.length ≤ s.cfg.memSize - s.cfg.programStart) :
    s.cfg.programStart + image.length ≤ s.cfg.memSize := by
  obtain ⟨-, hstart, -⟩ := hc
  omega

/-- The bytes of the image stand from `PROGRAM_START` on. -/
theorem readByte_loadImage (hend : s.cfg.programStart + image.length ≤ s.cfg.memSize) {j : Nat}
    (hj : j < image.length) :
    (s.loadImage image).readByte (s.cfg.programStart + j) = image[j] :=
  readByte_setMem_writeList (s := State.resetOf s.cfg) (Memory.wf_nil s.cfg) hend hj

/-- A byte outside the image is that of the reset state. -/
theorem readByte_loadImage_other (hend : s.cfg.programStart + image.length ≤ s.cfg.memSize) {a : Nat}
    (ha : a < s.cfg.programStart ∨ s.cfg.programStart + image.length ≤ a) :
    (s.loadImage image).readByte a = (State.resetOf s.cfg).readByte a :=
  readByte_setMem_writeList_other (s := State.resetOf s.cfg) (Memory.wf_nil s.cfg) hend ha

end

/-- Memory with nothing listed holds the free value `MEM_INIT` outside the font table (R34). -/
theorem readByte_resetOf_outside_font {c : Config} {a : Nat}
    (ha : a < c.fontBase ∨ c.fontBase + c.fontTable.length ≤ a) :
    (State.resetOf c).readByte a = c.memInitByte a := by
  have hnone : fontByte? c a = none := by
    rw [fontByte?, ite_eq_right_iff]
    intro hbase
    exact List.getElem?_eq_none (by omega)
  calc (State.resetOf c).readByte a = Memory.unlisted c a := Memory.read_unlisted rfl
    _ = c.memInitByte a := by rw [Memory.unlisted, hnone, Option.getD_none]

/-- Settles O4: the load writes memory only, from the reset state, and the font table ends at or below
`PROGRAM_START` by R8, so the image covers none of it. -/
theorem initializeBuildsResetState : Obligations.InitializeBuildsResetState := by
  refine fun image s hc => ⟨fun hfits => ?_, initRequest_of_tooLong⟩
  have hend := image_end_le_memSize hc hfits
  obtain ⟨hreg, hi, hpc, hstack, hdt, hkey, hpixel, hfont, hhalt⟩ := resetHoldsResetValues s.cfg hc
  have hfontBelow : s.cfg.fontBase + s.cfg.fontTable.length ≤ s.cfg.programStart := by
    obtain ⟨-, -, hbelow, -, -, -, hlength, -⟩ := hc
    omega
  refine ⟨_, initRequest_of_fits hfits, State.loadImage_cfg s image, hreg, hi, hpc, hstack, hdt, hkey,
    hpixel, hhalt, ?font, fun _ hj => readByte_loadImage hend hj, ?other⟩
  case font =>
    intro j hj
    exact (readByte_loadImage_other hend (.inl (by omega))).trans (hfont j hj)
  case other =>
    intro a _ houtsideFont houtsideImage
    exact (readByte_loadImage_other hend houtsideImage).trans
      (readByte_resetOf_outside_font houtsideFont)

/-! ### The first instruction (R133) -/

/-- A running machine executes the word it fetches, in the state the fetch leaves (R9). -/
theorem step_of_fetchNext {s u : State} {w : Word} (hs : s.running) (hf : fetchNext s = .word w u) :
    step s = executeWord w u := by
  simp only [step, stepRequest, hs, hf]

/-- Settles O5: `pc` is at `PROGRAM_START`, where bytes 0 and 1 of the image stand. -/
theorem firstFetchReadsImage : Obligations.FirstFetchReadsImage := by
  intro b c rest s hc hfits
  obtain ⟨t, ht, hcfg, -, -, hpc, hstack, -, -, -, hhalt, -, himage, -⟩ :=
    (initializeBuildsResetState (b :: c :: rest) s hc).1 hfits
  have hhigh : t.readByte t.pc.toNat = b := by
    rw [hpc]
    exact himage 0 (Nat.zero_lt_succ _)
  have hlow : t.readByte (t.pc.toNat + 1) = c := by
    rw [hpc]
    exact himage 1 (Nat.succ_lt_succ (Nat.zero_lt_succ _))
  have hlt : t.pc.toNat + 1 < t.cfg.memSize := by
    obtain ⟨-, hstart, -⟩ := hc
    rw [hpc, hcfg]
    omega
  have hfetch : fetchNext t = .word (wordOfBytes b c) t.advancePc := by
    rw [fetchNext_of_lt hlt, State.wordAtPc, hhigh, hlow]
  exact ⟨t, t.advancePc, ht, hhalt, hstack, hpc, hfetch, t.advancePc_pc, setPc_unchangedBut_pc t _,
    step_of_fetchNext hhalt hfetch⟩

/-! ### The jump to itself (R141) -/

/-- A word of format NNN as a sum: the family and the operand share no bit (R54). -/
theorem encNNN_eq_add (f : Nibble) (nnn : Addr12) :
    encNNN f nnn = f.setWidth 16 <<< 12 + nnn.setWidth 16 := by
  have hdisjoint : f.setWidth 16 <<< 12 &&& nnn.setWidth 16 = (0 : Word) := by
    ext k hk
    rcases Nat.lt_or_ge k 12 with h | h <;> simp [h]
  exact (BitVec.add_eq_or_of_and_eq_zero _ _ hdisjoint).symm

theorem decode_jp (nnn : Addr12) : decode (0x1000 + nnn.setWidth 16) = .instr (.jp nnn) := by
  have hword : encode (.jp nnn) = 0x1000 + nnn.setWidth 16 := encNNN_eq_add 0x1 nnn
  rw [← hword]
  exact decodeOfEncode (.jp nnn)

/-- Writing back the `pc` from before the fetch undoes the fetch. -/
@[simp] theorem State.setPc_pc_advancePc (s : State) : s.advancePc.setPc s.pc = s := rfl

/-- Settles O25: the jump writes back the `pc` the fetch advanced. -/
theorem idleLoopIsAFixedPoint : Obligations.IdleLoopIsAFixedPoint := by
  intro s a hs hpc hlt hword
  have hpcNat : s.pc.toNat = a.toNat := hpc ▸ zextAddr_toNat a
  have hfits : s.pc.toNat + 1 < s.cfg.memSize := by
    rw [hpcNat]
    exact hlt
  have hdecode : decode s.wordAtPc = .instr (.jp a) := hword ▸ decode_jp a
  calc step s = .next (s.advancePc.setPc (zextAddr a)) := step_of_instr hs hfits hdecode
    _ = .next (s.advancePc.setPc s.pc) := by rw [hpc, zextAddr]
    _ = .next s := by rw [State.setPc_pc_advancePc]

end Sys2Proof.Machine
end
